-- ==== Sys2Proof/Word.lean ====
section
/-! DEFINITION. The word types of the AMPCORE-1 ports and registers (10_state.md R16 to R24). -/

namespace Sys2Proof

/-- One byte of the input or output buffer (R19, R23). -/
abbrev Byte := BitVec 8

/-- A value port or result register: 1024 bits, bit i of weight 2^i (R16, R40). -/
abbrev Value := BitVec 1024

/-- A 3-bit width code: WSEL, an operand's tag or a result's tag (R56). -/
abbrev WSel := BitVec 3

/-- The 32-bit command word (R54, R55). -/
abbrev CmdWord := BitVec 32

/-- BUF_BYTES, the capacity of IN and OUT (R7, R19). -/
abbrev bufBytes : Nat := 256

/-- K_BITS, the width of the shift-count port (R7, R18). -/
abbrev kBits : Nat := 32

/-- A byte buffer, IN or OUT (R19, R23). -/
abbrev Buffer := Vector Byte bufBytes

end Sys2Proof
end

