-- ==== Sys2Proof/Machine/Ports.lean ====
section
/-! DEFINITION. The width-tagged value, the sampled input ports and the driven input pins (10_state.md R16, R17). -/

namespace Sys2Proof

/-- A width tag and a value: operand A or B, RES0 or RES1 (R17, R21). -/
structure Tagged where
  wsel : WSel
  val  : Value
  deriving DecidableEq, Repr, Inhabited

/-- A tagged value's number, unsigned (R60). -/
def Tagged.nat (x : Tagged) : Nat := x.val.toNat

/-- The ports a command is sampled from, `cmd` to `in_bytes` of R16; LATCH (R31) is one such sample. -/
structure Ports where
  cmd     : CmdWord
  a       : Tagged
  b       : Tagged
  k       : BitVec kBits
  inLen   : BitVec 9
  inBytes : Buffer
  deriving DecidableEq, Repr, Inhabited

/-- All that the host drives at one rising edge of `clk` (R16). -/
structure Pins where
  rst      : Bool
  cmdValid : Bool
  ports    : Ports
  deriving DecidableEq, Repr, Inhabited

/-- The value 0, in a form that evaluates without computing 2^1024. -/
def valueZero : Value := BitVec.ofNatLT 0 (Nat.two_pow_pos 1024)

/-- A port sample of zeros. -/
def Ports.zero : Ports where
  cmd := 0
  a := ⟨0, valueZero⟩
  b := ⟨0, valueZero⟩
  k := 0
  inLen := 0
  inBytes := Vector.replicate bufBytes 0

/-- Input wires all zero: no reset, no command presented. -/
def Pins.zero : Pins where
  rst := false
  cmdValid := false
  ports := Ports.zero

end Sys2Proof
end

