-- ==== Sys2Proof/Config.lean ====
section
/-! DEFINITION. What an implementation fixes and the free values (00_scope.md R5 to R7, 93_implementation_defined.md).
BUF_BYTES and K_BITS, which size types, stand in Word.lean. -/

namespace Sys2Proof.Config

/-- The precise widths (R5, R6). -/
def preciseWidths : List Nat := [5, 6, 7, 24]

/-- The wide, limb-based widths (R5, R6). -/
def wideWidths : List Nat := [256, 512, 1024]

/-- WIDTH_SET (R5), in the order of the width codes (R56). -/
def widthSet : List Nat := preciseWidths ++ wideWidths

/-- LIMB_BITS (R7). PRESUMED 64, as the spec itself says of its default; no result depends on it (R10; log 7). -/
def limbBits : Nat := 64

/-- How far PRECISE_BACKING_BITS exceeds 25: a free value (R7; log 7). -/
opaque preciseBackingExtra : Nat

/-- PRECISE_BACKING_BITS (R7): open, but above every precise width. -/
def preciseBackingBits : Nat := 25 + preciseBackingExtra

/-- The free value behind LAT_MAX (R7, R137; log 4). -/
opaque latMaxRaw : Nat

/-- LAT_MAX (R7): open, at least 1. -/
def latMax : Nat := latMaxRaw + 1

/-- The free value behind LAT, for each accepted command with its operands (R137; log 4). -/
opaque latRaw : Ports → Nat

/-- LAT(cmd) (R7, R34, R137): open, from 1 to LAT_MAX, possibly different for each command and operands. -/
def lat (l : Ports) : Nat := 1 + latRaw l % latMax

/-- What LATCH holds while no command is in flight: any value (R31, 93_implementation_defined.md; log 3).
The argument is the number of the draw. -/
opaque idleLatch : Nat → Ports

end Sys2Proof.Config
end

