-- ==== Sys2Proof/Machine/Width.lean ====
section
/-! DEFINITION. Width codes, width classes, byte counts and the width mask (R5, R6, R56, R82). -/

namespace Sys2Proof

/-- WIDTH(code) of R56, by WIDTH_SET; code 7 is reserved and has none. -/
def widthOf (ws : WSel) : Option Nat := Config.widthSet[ws.toNat]?

/-- W is precise, one backing word (R6). -/
def isPrecise (W : Nat) : Bool := Config.preciseWidths.contains W

/-- W is wide, a sequence of limbs (R6). -/
def isWide (W : Nat) : Bool := Config.wideWidths.contains W

/-- W is byte-aligned (R6). -/
def isByteAligned (W : Nat) : Bool := W % 8 == 0

/-- NBYTES(W) = ceil(W/8) (R6). -/
def nbytes (W : Nat) : Nat := (W + 7) / 8

/-- MASK(W) = 2^W - 1 (R11). -/
def maskOf (W : Nat) : Nat := 2 ^ W - 1

/-- mask_W(v) = v mod 2^W (R82). -/
def maskTo (W v : Nat) : Nat := v % 2 ^ W

end Sys2Proof
end

