-- ==== Sys2Proof/Syntax.lean ====
section
/-! DEFINITION. The 24 commands of AMPCORE-1 as syntax (30_encoding.md R55 to R62). -/

namespace Sys2Proof

/-- The overflow policy, POLICY codes 0, 1, 2 (R57). -/
inductive Policy where
  | checked
  | wrapping
  | saturating
  deriving DecidableEq, Repr, Inhabited

/-- The byte order of TOBYTES and FROMBYTES (R58). -/
inductive Endian where
  | big
  | little
  deriving DecidableEq, Repr, Inhabited

/-- One constructor per row of the opcode map (R62). `ws` is the field WSEL and `pol` the field POLICY, which every
command word carries, also where the command ignores it (R57); only the byte codec carries ENDIAN (R58). -/
inductive Instr where
  | add (ws : WSel) (pol : Policy)
  | sub (ws : WSel) (pol : Policy)
  | mul (ws : WSel) (pol : Policy)
  | div (ws : WSel) (pol : Policy)
  | rem (ws : WSel) (pol : Policy)
  | divrem (ws : WSel) (pol : Policy)
  | inc (ws : WSel) (pol : Policy)
  | shl (ws : WSel) (pol : Policy)
  | shr (ws : WSel) (pol : Policy)
  | and (ws : WSel) (pol : Policy)
  | or (ws : WSel) (pol : Policy)
  | xor (ws : WSel) (pol : Policy)
  | not (ws : WSel) (pol : Policy)
  | cmp (ws : WSel) (pol : Policy)
  | eq (ws : WSel) (pol : Policy)
  | ne (ws : WSel) (pol : Policy)
  | lt (ws : WSel) (pol : Policy)
  | le (ws : WSel) (pol : Policy)
  | gt (ws : WSel) (pol : Policy)
  | ge (ws : WSel) (pol : Policy)
  | tobytes (ws : WSel) (pol : Policy) (en : Endian)
  | frombytes (ws : WSel) (pol : Policy) (en : Endian)
  | tohex (ws : WSel) (pol : Policy)
  | fromhex (ws : WSel) (pol : Policy)
  deriving DecidableEq, Repr

/-- The command's WSEL field (R56). -/
def Instr.wsel : Instr → WSel
  | .add ws _ => ws
  | .sub ws _ => ws
  | .mul ws _ => ws
  | .div ws _ => ws
  | .rem ws _ => ws
  | .divrem ws _ => ws
  | .inc ws _ => ws
  | .shl ws _ => ws
  | .shr ws _ => ws
  | .and ws _ => ws
  | .or ws _ => ws
  | .xor ws _ => ws
  | .not ws _ => ws
  | .cmp ws _ => ws
  | .eq ws _ => ws
  | .ne ws _ => ws
  | .lt ws _ => ws
  | .le ws _ => ws
  | .gt ws _ => ws
  | .ge ws _ => ws
  | .tobytes ws _ _ => ws
  | .frombytes ws _ _ => ws
  | .tohex ws _ => ws
  | .fromhex ws _ => ws

/-- The command's POLICY field (R57). -/
def Instr.policy : Instr → Policy
  | .add _ pol => pol
  | .sub _ pol => pol
  | .mul _ pol => pol
  | .div _ pol => pol
  | .rem _ pol => pol
  | .divrem _ pol => pol
  | .inc _ pol => pol
  | .shl _ pol => pol
  | .shr _ pol => pol
  | .and _ pol => pol
  | .or _ pol => pol
  | .xor _ pol => pol
  | .not _ pol => pol
  | .cmp _ pol => pol
  | .eq _ pol => pol
  | .ne _ pol => pol
  | .lt _ pol => pol
  | .le _ pol => pol
  | .gt _ pol => pol
  | .ge _ pol => pol
  | .tobytes _ pol _ => pol
  | .frombytes _ pol _ => pol
  | .tohex _ pol => pol
  | .fromhex _ pol => pol

/-- The command's ENDIAN field: 0, big-endian, in every command but the byte codec (R58). -/
def Instr.endian : Instr → Endian
  | .tobytes _ _ en => en
  | .frombytes _ _ en => en
  | .add _ _ | .sub _ _ | .mul _ _ | .div _ _ | .rem _ _ | .divrem _ _ | .inc _ _ | .shl _ _ | .shr _ _ => .big
  | .and _ _ | .or _ _ | .xor _ _ | .not _ _ | .cmp _ _ | .eq _ _ | .ne _ _ | .lt _ _ | .le _ _ | .gt _ _ => .big
  | .ge _ _ | .tohex _ _ | .fromhex _ _ => .big

/-- The value operands a command reads (R61). SHL and SHR, unary, also read `k`. -/
inductive OperandClass where
  | binary
  | unary
  | none
  deriving DecidableEq, Repr

/-- The operand class of each command (R61). -/
def Instr.operandClass : Instr → OperandClass
  | .add _ _ | .sub _ _ | .mul _ _ | .div _ _ | .rem _ _ | .divrem _ _ => .binary
  | .and _ _ | .or _ _ | .xor _ _ => .binary
  | .cmp _ _ | .eq _ _ | .ne _ _ | .lt _ _ | .le _ _ | .gt _ _ | .ge _ _ => .binary
  | .inc _ _ | .not _ _ | .shl _ _ | .shr _ _ | .tobytes _ _ _ | .tohex _ _ => .unary
  | .frombytes _ _ _ | .fromhex _ _ => .none

end Sys2Proof
end

