-- ==== Sys2Proof/WellFormed.lean ====
section
/-! DEFINITION. Well-formed commands: the only field whose type admits more than the spec does is WSEL (R56, R63).
POLICY 3 and an ENDIAN outside the byte codec cannot be written as an `Instr`. -/

namespace Sys2Proof

/-- WSEL names a width of WIDTH_SET (R56). -/
def Instr.wf (i : Instr) : Bool := (widthOf i.wsel).isSome

end Sys2Proof
end

