-- ==== Sys2Proof/Decode.lean ====
section
/-! DEFINITION. The decoder of command words, total and rejecting by name, and the encoder (30_encoding.md R54 to R63). -/

namespace Sys2Proof

/-- Why a command word is illegal (R63). All five end in the one error IllegalCommand; which of several is named first is
the model's own and unobservable (DESIGN CHOICE, log 9). -/
inductive DecodeError where
  /-- RSVD, bits [31:14], is not 0. -/
  | reservedBits
  /-- WSEL names no width. -/
  | reservedWidth
  /-- POLICY = 3. -/
  | reservedPolicy
  /-- OPCODE is not in the table of R62. -/
  | unknownOpcode
  /-- ENDIAN = 1 outside TOBYTES and FROMBYTES. -/
  | endianNotAllowed
  deriving DecidableEq, Repr

/-- OPCODE, bits [7:0] (R55). -/
def opcodeField (w : CmdWord) : BitVec 8 := w.extractLsb' 0 8

/-- WSEL, bits [10:8] (R55). -/
def wselField (w : CmdWord) : WSel := w.extractLsb' 8 3

/-- POLICY, bits [12:11] (R55). -/
def policyField (w : CmdWord) : BitVec 2 := w.extractLsb' 11 2

/-- ENDIAN, bit [13] (R55). -/
def endianField (w : CmdWord) : BitVec 1 := w.extractLsb' 13 1

/-- RSVD, bits [31:14] (R55). -/
def rsvdField (w : CmdWord) : BitVec 18 := w.extractLsb' 14 18

/-- POLICY codes (R57); 3 is reserved. -/
def policyOf (c : BitVec 2) : Option Policy :=
  match c with
  | 0#2 => some .checked
  | 1#2 => some .wrapping
  | 2#2 => some .saturating
  | _ => none

/-- ENDIAN codes (R58). -/
def endianOf (c : BitVec 1) : Endian := if c = 0#1 then .big else .little

/-- A command that allows ENDIAN = 0 only (R58). -/
def bigOnly (en : Endian) (i : Instr) : Except DecodeError Instr :=
  match en with
  | .big => .ok i
  | .little => .error .endianNotAllowed

/-- The opcode map of R62. -/
def ofOpcode (op : BitVec 8) (ws : WSel) (pol : Policy) (en : Endian) : Except DecodeError Instr :=
  match op with
  | 0x01#8 => bigOnly en (.add ws pol)
  | 0x02#8 => bigOnly en (.sub ws pol)
  | 0x03#8 => bigOnly en (.mul ws pol)
  | 0x04#8 => bigOnly en (.div ws pol)
  | 0x05#8 => bigOnly en (.rem ws pol)
  | 0x06#8 => bigOnly en (.divrem ws pol)
  | 0x07#8 => bigOnly en (.inc ws pol)
  | 0x10#8 => bigOnly en (.shl ws pol)
  | 0x11#8 => bigOnly en (.shr ws pol)
  | 0x20#8 => bigOnly en (.and ws pol)
  | 0x21#8 => bigOnly en (.or ws pol)
  | 0x22#8 => bigOnly en (.xor ws pol)
  | 0x23#8 => bigOnly en (.not ws pol)
  | 0x30#8 => bigOnly en (.cmp ws pol)
  | 0x31#8 => bigOnly en (.eq ws pol)
  | 0x32#8 => bigOnly en (.ne ws pol)
  | 0x33#8 => bigOnly en (.lt ws pol)
  | 0x34#8 => bigOnly en (.le ws pol)
  | 0x35#8 => bigOnly en (.gt ws pol)
  | 0x36#8 => bigOnly en (.ge ws pol)
  | 0x40#8 => .ok (.tobytes ws pol en)
  | 0x41#8 => .ok (.frombytes ws pol en)
  | 0x42#8 => bigOnly en (.tohex ws pol)
  | 0x43#8 => bigOnly en (.fromhex ws pol)
  | _ => .error .unknownOpcode

/-- The command a 32-bit command word stands for, or why it is illegal (R63). -/
def decode (w : CmdWord) : Except DecodeError Instr :=
  if rsvdField w ≠ 0#18 then .error .reservedBits
  else if (widthOf (wselField w)).isNone then .error .reservedWidth
  else
    match policyOf (policyField w) with
    | none => .error .reservedPolicy
    | some pol => ofOpcode (opcodeField w) (wselField w) pol (endianOf (endianField w))

/-- POLICY's code (R57). -/
def Policy.code : Policy → BitVec 2
  | .checked => 0#2
  | .wrapping => 1#2
  | .saturating => 2#2

/-- ENDIAN's code (R58). -/
def Endian.code : Endian → BitVec 1
  | .big => 0#1
  | .little => 1#1

/-- OPCODE of each command (R62). -/
def Instr.opcode : Instr → BitVec 8
  | .add _ _ => 0x01#8
  | .sub _ _ => 0x02#8
  | .mul _ _ => 0x03#8
  | .div _ _ => 0x04#8
  | .rem _ _ => 0x05#8
  | .divrem _ _ => 0x06#8
  | .inc _ _ => 0x07#8
  | .shl _ _ => 0x10#8
  | .shr _ _ => 0x11#8
  | .and _ _ => 0x20#8
  | .or _ _ => 0x21#8
  | .xor _ _ => 0x22#8
  | .not _ _ => 0x23#8
  | .cmp _ _ => 0x30#8
  | .eq _ _ => 0x31#8
  | .ne _ _ => 0x32#8
  | .lt _ _ => 0x33#8
  | .le _ _ => 0x34#8
  | .gt _ _ => 0x35#8
  | .ge _ _ => 0x36#8
  | .tobytes _ _ _ => 0x40#8
  | .frombytes _ _ _ => 0x41#8
  | .tohex _ _ => 0x42#8
  | .fromhex _ _ => 0x43#8

/-- `cmd = {RSVD, ENDIAN, POLICY, WSEL, OPCODE}` with RSVD = 0 (R55, R59). -/
def encode (i : Instr) : CmdWord :=
  0#18 ++ i.endian.code ++ i.policy.code ++ i.wsel ++ i.opcode

/-- What the decoder reads from a table row's bits: the command word is the one 32-bit word of the instruction, its bits
numbered as the table numbers them (R54, R55), and bits at and above `nbits` are 0. A number that does not fit the word is
no command word (log 10). -/
def decodeTableWord (nbits w : Nat) : Option Instr :=
  let v := w % 2 ^ nbits
  if v < 2 ^ 32 then (decode (BitVec.ofNat 32 v)).toOption else none

end Sys2Proof
end

