-- ==== Sys2Proof/Machine/State.lean ====
section
/-! DEFINITION. The state of the unit, its error codes, the stops of the model, and the state after reset (10_state.md). -/

namespace Sys2Proof.Machine

/-- The error taxonomy (R114). -/
inductive ErrCode where
  | overflow
  | underflow
  | divisionByZero
  | widthMismatch
  | lengthMismatch
  | oddLength
  | invalidHexDigit
  | overflowOnDecode
  | illegalCommand
  | invalidOperand
  deriving DecidableEq, Repr

/-- The response registers, which change together (R12, R21 to R24, R35). -/
structure Response where
  /-- RES0, the primary result. -/
  res0   : Tagged
  /-- RES1, the remainder of DIVREM. -/
  res1   : Tagged
  /-- OUT[0..255]. -/
  out    : Buffer
  /-- OUT_LEN. -/
  outLen : BitVec 9
  /-- STATUS, read whole by the host (R24). -/
  status : BitVec 32
  deriving DecidableEq, Repr

/-- The state of the unit and of its input wires. The last four fields are the model's own: the host's wires are inputs
of the block, not registers of it. -/
structure State where
  /-- BUSY (R30). -/
  busy       : Bool
  /-- RSP_VALID (R32). -/
  rspValid   : Bool
  /-- LATCH (R31). -/
  latch      : Ports
  /-- RES0, RES1, OUT, OUT_LEN and STATUS. -/
  rsp        : Response
  /-- What the host drives on the input ports at the coming rising edge (R16; log 2). -/
  pins       : Pins
  /-- What the host drives at the edges after that one, the next first (log 2). -/
  hostNext   : List Pins
  /-- Edges until the command in flight completes (R34; log 4). -/
  cyclesLeft : Nat
  /-- How many free values have been drawn (log 3). -/
  draws      : Nat
  deriving DecidableEq, Repr

/-- The stops of the machine. -/
inductive Fault where
  /-- A response carries ERR 11 to 15, which the block never produces (R114; 93_implementation_defined.md: a model that sees
  one faults). Raised by `State.complete` alone. Safe: the machine stops where the spec says it never comes. -/
  | reservedErrorCode
  deriving DecidableEq, Repr

/-- The refusals of the machine. -/
inductive Refusal where
  /-- A command whose meaning is not written. Raised by `exec` alone, by no command of this model. Safe. -/
  | notModelled (mnemonic : String)
  deriving DecidableEq, Repr

/-- The value R37 gives each response register at reset. -/
def Response.zero : Response where
  res0 := ⟨0, 0⟩
  res1 := ⟨0, 0⟩
  out := Vector.replicate bufBytes 0
  outLen := 0
  status := 0

/-- The state right after a reset edge (R37, R127). LATCH has no reset value in the spec: DESIGN CHOICE zero (log 3). The
wires and the model's own fields: DESIGN CHOICE zero, with nothing scheduled (logs 2, 3, 4). -/
def State.reset : State where
  busy := false
  rspValid := false
  latch := Ports.zero
  rsp := Response.zero
  pins := Pins.zero
  hostNext := []
  cyclesLeft := 0
  draws := 0

end Sys2Proof.Machine
end

