-- ==== Sys2Proof/Machine/Flags.lean ====
section
/-! DEFINITION. STATUS: its fields, the error codes and the three-way result codes (10_state.md R24 to R28, R114). -/

namespace Sys2Proof.Machine

/-- The number of an error in STATUS.ERR (R114). -/
def ErrCode.code : ErrCode → BitVec 4
  | .overflow => 1
  | .underflow => 2
  | .divisionByZero => 3
  | .widthMismatch => 4
  | .lengthMismatch => 5
  | .oddLength => 6
  | .invalidHexDigit => 7
  | .overflowOnDecode => 8
  | .illegalCommand => 9
  | .invalidOperand => 10

/-- The errors whose response keeps OVF = 1 (R115). -/
def ErrCode.setsOvf : ErrCode → Bool
  | .overflow => true
  | .underflow => true
  | .divisionByZero => false
  | .widthMismatch => false
  | .lengthMismatch => false
  | .oddLength => false
  | .invalidHexDigit => false
  | .overflowOnDecode => false
  | .illegalCommand => false
  | .invalidOperand => false

/-- The code of a three-way result in STATUS.ORD (R26, R73). -/
def ordCode : Ordering → BitVec 2
  | .lt => 0b01
  | .eq => 0b10
  | .gt => 0b11

/-- STATUS from its fields, reserved bits 0 (R24). -/
def statusWord (err : BitVec 4) (ovf : Bool) (ord : BitVec 2) (pred : Bool) : BitVec 32 :=
  0#24 ++ BitVec.ofBool pred ++ ord ++ BitVec.ofBool ovf ++ err

/-- STATUS.ERR, bits [3:0] (R24). -/
def statusErr (st : BitVec 32) : BitVec 4 := st.extractLsb' 0 4

/-- STATUS.OVF, bit [4] (R25). -/
def statusOvf (st : BitVec 32) : Bool := st.getLsbD 4

/-- STATUS.ORD, bits [6:5] (R26). -/
def statusOrd (st : BitVec 32) : BitVec 2 := st.extractLsb' 5 2

/-- STATUS.PRED, bit [7] (R27). -/
def statusPred (st : BitVec 32) : Bool := st.getLsbD 7

/-- STATUS[31:8], reserved (R24). -/
def statusReserved (st : BitVec 32) : BitVec 24 := st.extractLsb' 8 24

end Sys2Proof.Machine
end

