-- ==== Sys2Proof/Machine/Ops.lean ====
section
/-! DEFINITION. The named operations on the state: building a response, raising an error, completing, the clock edge's
parts, and the output ports (10_state.md R20 to R35, R66, R67, R115, R127). The block has no memory and no trap (R38,
R118): raising an error is the one operation that stands where another machine would take an exception. -/

namespace Sys2Proof.Machine

/-- The default response, which an opcode rule starts from (R67). -/
def Response.default (ws : WSel) : Response where
  res0 := ⟨ws, 0⟩
  res1 := ⟨ws, 0⟩
  out := Vector.replicate bufBytes 0
  outLen := 0
  status := 0

/-- `raise E`: the whole response of a command that fails with E (R115). -/
def errorResponse (ws : WSel) (e : ErrCode) : Response :=
  { Response.default ws with status := statusWord e.code e.setsOvf 0 false }

/-- RES0.val <- v. -/
def Response.setRes0 (r : Response) (v : Nat) : Response := { r with res0 := ⟨r.res0.wsel, BitVec.ofNat 1024 v⟩ }

/-- RES1.val <- v. -/
def Response.setRes1 (r : Response) (v : Nat) : Response := { r with res1 := ⟨r.res1.wsel, BitVec.ofNat 1024 v⟩ }

/-- STATUS.OVF <- ovf in a response that has not failed. -/
def Response.setOvf (r : Response) (ovf : Bool) : Response := { r with status := statusWord 0 ovf 0 false }

/-- STATUS.ORD <- ord and STATUS.PRED <- pred in a response that has not failed. -/
def Response.setOrdPred (r : Response) (ord : BitVec 2) (pred : Bool) : Response :=
  { r with status := statusWord 0 false ord pred }

/-- A buffer whose leading bytes are given and whose others are 0. -/
def bufferOf (bytes : List Byte) : Buffer := Vector.ofFn fun i => bytes.getD i 0

/-- OUT[0..n-1] <- bytes, the rest of OUT 0, OUT_LEN <- n (R23). -/
def Response.setOut (r : Response) (bytes : List Byte) : Response :=
  { r with out := bufferOf bytes, outLen := BitVec.ofNat 9 bytes.length }

/-- No command in flight any more: LATCH may hold any value from here on (R31; log 3). -/
def State.idle (s : State) : State :=
  { s with busy := false, cyclesLeft := 0, latch := Config.idleLatch s.draws, draws := s.draws + 1 }

/-- The completing edge's register writes (R34): the whole response, BUSY <- 0, RSP_VALID <- 1. -/
def State.respond (s : State) (r : Response) : State := { s.idle with rsp := r, rspValid := true }

/-- Complete with a response (R34). One with a reserved error code stops the model (93_implementation_defined.md; log 5). -/
def State.complete (s : State) (r : Response) : Host.Outcome State Fault Refusal :=
  if 11#4 ≤ statusErr r.status then .fault .reservedErrorCode
  else .next (s.respond r)

/-- Complete with the response an opcode rule gives, or with the error it raises (R66). -/
def State.finish (s : State) (ws : WSel) (r : Except ErrCode Response) : Host.Outcome State Fault Refusal :=
  match r with
  | .ok r => s.complete r
  | .error e => s.complete (errorResponse ws e)

/-- The host's wires move on to what it drives at the next edge; with nothing scheduled they hold (log 2). -/
def State.nextPins (s : State) : State :=
  match s.hostNext with
  | [] => s
  | p :: ps => { s with pins := p, hostNext := ps }

/-- The register writes of an edge with `rst` = 1 (R127, R128). -/
def State.resetEdge (s : State) : State := { s.idle with rsp := Response.zero, rspValid := false }

/-- Acceptance (R33): LATCH takes the given sample, BUSY <- 1, RSP_VALID <- 0; LAT edges remain (R34). -/
def State.accept (s : State) (p : Ports) : State :=
  { s with latch := p, busy := true, rspValid := false, cyclesLeft := Config.lat p }

/-- An edge at which the command in flight does not complete yet. -/
def State.tick (s : State) : State := { s with cyclesLeft := s.cyclesLeft - 1 }

/-- `cmd_ready` = ¬BUSY ∧ ¬rst (R20, R30). -/
def State.cmdReady (s : State) : Bool := !s.busy && !s.pins.rst

/-- The output ports (R20), each driven directly by a register but for `cmd_ready`. -/
structure OutPorts where
  cmdReady : Bool
  rspValid : Bool
  res0     : Tagged
  res1     : Tagged
  outLen   : BitVec 9
  outBytes : Buffer
  status   : BitVec 32
  deriving DecidableEq, Repr

/-- What the host reads at any time; reading changes nothing (R20, R48). -/
def State.outputs (s : State) : OutPorts where
  cmdReady := s.cmdReady
  rspValid := s.rspValid
  res0 := s.rsp.res0
  res1 := s.rsp.res1
  outLen := s.rsp.outLen
  outBytes := s.rsp.out
  status := s.rsp.status

end Sys2Proof.Machine
end

