-- ==== Sys2Proof/Machine/Operands.lean ====
section
/-! DEFINITION. Operand classes and their checks, in the order of Exec (30_encoding.md R60, R61, R64 to R66, R116). -/

namespace Sys2Proof.Machine

/-- The checks of Exec for the operands a command reads, then its rule at width W. A WSEL without a width is an illegal
command (R63); every tag is compared with WSEL (R64) before any value is checked (R65). -/
def checked (ws : WSel) (operands : List Tagged) (rule : Nat → Except ErrCode Response) : Except ErrCode Response :=
  match widthOf ws with
  | none => .error .illegalCommand
  | some W =>
    if operands.any (fun x => x.wsel != ws) then .error .widthMismatch
    else if operands.any (fun x => decide (2 ^ W ≤ x.nat)) then .error .invalidOperand
    else rule W

/-- A command that reads A and B (R61). -/
def binary (ws : WSel) (s : State) (rule : Nat → Nat → Nat → Except ErrCode Response) : Host.Outcome State Fault Refusal :=
  s.finish ws (checked ws [s.latch.a, s.latch.b] fun W => rule W s.latch.a.nat s.latch.b.nat)

/-- A command that reads A only (R61). -/
def unary (ws : WSel) (s : State) (rule : Nat → Nat → Except ErrCode Response) : Host.Outcome State Fault Refusal :=
  s.finish ws (checked ws [s.latch.a] fun W => rule W s.latch.a.nat)

/-- A command that reads A and the shift count k (R61, R18). -/
def unaryCount (ws : WSel) (s : State) (rule : Nat → Nat → Nat → Except ErrCode Response) :
    Host.Outcome State Fault Refusal :=
  s.finish ws (checked ws [s.latch.a] fun W => rule W s.latch.a.nat s.latch.k.toNat)

/-- A command that reads no value operand but `in_len` and IN (R61). -/
def bytesIn (ws : WSel) (s : State) (rule : Nat → Nat → List Byte → Except ErrCode Response) :
    Host.Outcome State Fault Refusal :=
  s.finish ws (checked ws [] fun W => rule W s.latch.inLen.toNat s.latch.inBytes.toList)

end Sys2Proof.Machine
end

