-- ==== Sys2Proof/Machine/AddSub.lean ====
section
/-! DEFINITION. The overflow policy, and ADD, SUB, INC (41_addsub.md R83 to R90). -/

namespace Sys2Proof.Machine

/-- ApplyPolicy (R83): `x` is the exact result, `cond` the overflow condition, `bound` the saturated value, `e` the error
under the checked policy. -/
def applyPolicy (ws : WSel) (W : Nat) (pol : Policy) (e : ErrCode) (x : Int) (cond : Bool) (bound : Nat) :
    Except ErrCode Response :=
  let r := (Response.default ws).setOvf cond
  if cond then
    match pol with
    | .checked => .error e
    | .wrapping => .ok (r.setRes0 (x % (2 ^ W : Nat)).toNat)
    | .saturating => .ok (r.setRes0 bound)
  else .ok (r.setRes0 x.toNat)

/-- ADD (R86), with the overflow condition of R84. -/
def execAdd (ws : WSel) (pol : Policy) (s : State) : Host.Outcome State Fault Refusal :=
  binary ws s fun W a b => applyPolicy ws W pol .overflow ((a + b : Nat) : Int) (decide (2 ^ W ≤ a + b)) (maskOf W)

/-- SUB (R89), with the underflow condition of R87. -/
def execSub (ws : WSel) (pol : Policy) (s : State) : Host.Outcome State Fault Refusal :=
  binary ws s fun W a b => applyPolicy ws W pol .underflow ((a : Int) - (b : Int)) (decide (a < b)) 0

/-- INC (R90). -/
def execInc (ws : WSel) (pol : Policy) (s : State) : Host.Outcome State Fault Refusal :=
  unary ws s fun W a => applyPolicy ws W pol .overflow ((a + 1 : Nat) : Int) (decide (2 ^ W ≤ a + 1)) (maskOf W)

end Sys2Proof.Machine
end

