-- ==== Sys2Proof/Machine/Codec.lean ====
section
/-! DEFINITION. The byte and hexadecimal codec: TOBYTES, FROMBYTES, TOHEX, FROMHEX (44_codec.md R107 to R111, R42, R43).
The ASCII codes of the hex characters are PRESUMED, as the spec itself says of them (log 8). -/

namespace Sys2Proof.Machine

/-- byte_j(v) (R42). -/
def byteOf (v j : Nat) : Byte := BitVec.ofNat 8 (v / 2 ^ (8 * j))

/-- The n bytes of v, least significant first (R42). -/
def bytesLE (v n : Nat) : List Byte := (List.range n).map (byteOf v)

/-- The n bytes of v in the given order (R43, R108). -/
def bytesOf (en : Endian) (v n : Nat) : List Byte :=
  match en with
  | .big => (bytesLE v n).reverse
  | .little => bytesLE v n

/-- The number whose bytes are given least significant first. -/
def natOfBytesLE : List Byte → Nat
  | [] => 0
  | b :: bs => b.toNat + 2 ^ 8 * natOfBytesLE bs

/-- The number whose bytes are given in the given order (R43, R109). -/
def natOfBytes (en : Endian) (bytes : List Byte) : Nat :=
  match en with
  | .big => natOfBytesLE bytes.reverse
  | .little => natOfBytesLE bytes

/-- HEX(d), the ASCII code of a nibble's lowercase hex digit (R107). -/
def hexChar (d : Nat) : Byte := if d ≤ 9 then BitVec.ofNat 8 (0x30 + d) else BitVec.ofNat 8 (0x61 + (d - 10))

/-- HexVal(c), both cases accepted; none for every byte that is no hex digit (R107). -/
def hexVal (c : Byte) : Option Nat :=
  let n := c.toNat
  if 0x30 ≤ n ∧ n ≤ 0x39 then some (n - 0x30)
  else if 0x61 ≤ n ∧ n ≤ 0x66 then some (n - 0x61 + 10)
  else if 0x41 ≤ n ∧ n ≤ 0x46 then some (n - 0x41 + 10)
  else none

/-- The hex text of bytes given most significant first, high nibble first (R110). -/
def hexText : List Byte → List Byte
  | [] => []
  | b :: bs => hexChar (b.toNat / 16) :: hexChar (b.toNat % 16) :: hexText bs

/-- The digits of a hex text, none when some character is no hex digit (R111). -/
def hexDigits : List Byte → Option (List Nat)
  | [] => some []
  | c :: cs =>
    match hexVal c, hexDigits cs with
    | some d, some ds => some (d :: ds)
    | _, _ => none

/-- The number whose hex digits are given most significant first (R111). -/
def natOfDigits (ds : List Nat) : Nat := ds.foldl (fun v d => 16 * v + d) 0

/-- A decoded value is written only if it fits the width (R109, R111). -/
def decodedValue (ws : WSel) (W v : Nat) : Except ErrCode Response :=
  if 2 ^ W ≤ v then .error .overflowOnDecode else .ok ((Response.default ws).setRes0 v)

/-- TOBYTES (R108). -/
def execTobytes (ws : WSel) (_pol : Policy) (en : Endian) (s : State) : Host.Outcome State Fault Refusal :=
  unary ws s fun W a => .ok ((Response.default ws).setOut (bytesOf en a (nbytes W)))

/-- FROMBYTES (R109). -/
def execFrombytes (ws : WSel) (_pol : Policy) (en : Endian) (s : State) : Host.Outcome State Fault Refusal :=
  bytesIn ws s fun W len bytes =>
    if len ≠ nbytes W then .error .lengthMismatch
    else decodedValue ws W (natOfBytes en (bytes.take (nbytes W)))

/-- TOHEX (R110). -/
def execTohex (ws : WSel) (_pol : Policy) (s : State) : Host.Outcome State Fault Refusal :=
  unary ws s fun W a => .ok ((Response.default ws).setOut (hexText (bytesOf .big a (nbytes W))))

/-- FROMHEX (R111): OddLength, LengthMismatch, InvalidHexDigit, OverflowOnDecode, in that order. -/
def execFromhex (ws : WSel) (_pol : Policy) (s : State) : Host.Outcome State Fault Refusal :=
  bytesIn ws s fun W len bytes =>
    if isByteAligned W = true ∧ len % 2 = 1 then .error .oddLength
    else if len ≠ 2 * nbytes W then .error .lengthMismatch
    else
      match hexDigits (bytes.take (2 * nbytes W)) with
      | none => .error .invalidHexDigit
      | some ds => decodedValue ws W (natOfDigits ds)

end Sys2Proof.Machine
end

