-- ==== Sys2Proof/Machine/Compare.lean ====
section
/-! DEFINITION. The comparator primitive, CMP and the six relational commands (40_compare.md R73 to R81). -/

namespace Sys2Proof.Machine

/-- Compare(a, b) (R73), on natural numbers. -/
def compareNat (a b : Nat) : Ordering := if a < b then .lt else if a = b then .eq else .gt

/-- A relational command: STATUS.ORD <- code(Compare(a, b)), STATUS.PRED <- the relation (R76 to R81). -/
def relational (ws : WSel) (s : State) (pred : Ordering → Bool) : Host.Outcome State Fault Refusal :=
  binary ws s fun _ a b =>
    .ok ((Response.default ws).setOrdPred (ordCode (compareNat a b)) (pred (compareNat a b)))

/-- CMP (R75): ORD only, PRED 0. -/
def execCmp (ws : WSel) (_pol : Policy) (s : State) : Host.Outcome State Fault Refusal :=
  relational ws s fun _ => false

/-- EQ (R76). -/
def execEq (ws : WSel) (_pol : Policy) (s : State) : Host.Outcome State Fault Refusal :=
  relational ws s fun r => r == .eq

/-- NE (R77). -/
def execNe (ws : WSel) (_pol : Policy) (s : State) : Host.Outcome State Fault Refusal :=
  relational ws s fun r => r != .eq

/-- LT (R78). -/
def execLt (ws : WSel) (_pol : Policy) (s : State) : Host.Outcome State Fault Refusal :=
  relational ws s fun r => r == .lt

/-- LE (R79). -/
def execLe (ws : WSel) (_pol : Policy) (s : State) : Host.Outcome State Fault Refusal :=
  relational ws s fun r => r != .gt

/-- GT (R80). -/
def execGt (ws : WSel) (_pol : Policy) (s : State) : Host.Outcome State Fault Refusal :=
  relational ws s fun r => r == .gt

/-- GE (R81). -/
def execGe (ws : WSel) (_pol : Policy) (s : State) : Host.Outcome State Fault Refusal :=
  relational ws s fun r => r != .lt

end Sys2Proof.Machine
end

