-- ==== Sys2Proof/Machine/MulDiv.lean ====
section
/-! DEFINITION. MUL, DIV, REM, DIVREM (42_muldiv.md R91 to R98). -/

namespace Sys2Proof.Machine

/-- MUL (R93), with the overflow condition of R91. -/
def execMul (ws : WSel) (pol : Policy) (s : State) : Host.Outcome State Fault Refusal :=
  binary ws s fun W a b => applyPolicy ws W pol .overflow ((a * b : Nat) : Int) (decide (2 ^ W ≤ a * b)) (maskOf W)

/-- Division by zero is always reported (R94); otherwise the division's rule runs. -/
def nonzeroDivisor (b : Nat) (r : Response) : Except ErrCode Response :=
  if b = 0 then .error .divisionByZero else .ok r

/-- DIV (R96). POLICY is ignored (R57). -/
def execDiv (ws : WSel) (_pol : Policy) (s : State) : Host.Outcome State Fault Refusal :=
  binary ws s fun _ a b => nonzeroDivisor b ((Response.default ws).setRes0 (a / b))

/-- REM (R97). -/
def execRem (ws : WSel) (_pol : Policy) (s : State) : Host.Outcome State Fault Refusal :=
  binary ws s fun _ a b => nonzeroDivisor b ((Response.default ws).setRes0 (a % b))

/-- DIVREM (R98). -/
def execDivrem (ws : WSel) (_pol : Policy) (s : State) : Host.Outcome State Fault Refusal :=
  binary ws s fun _ a b => nonzeroDivisor b (((Response.default ws).setRes0 (a / b)).setRes1 (a % b))

end Sys2Proof.Machine
end

