-- ==== Sys2Proof/Machine/ShiftBitwise.lean ====
section
/-! DEFINITION. SHL, SHR, AND, OR, XOR, NOT (43_shift_bitwise.md R99 to R106). None reads POLICY or reports overflow. -/

namespace Sys2Proof.Machine

/-- The value of a shift to the left (R100). -/
def shiftLeftValue (W a k : Nat) : Nat := if W ≤ k then 0 else maskTo W (a * 2 ^ k)

/-- The value of a logical shift to the right (R101). -/
def shiftRightValue (W a k : Nat) : Nat := if W ≤ k then 0 else a / 2 ^ k

/-- SHL (R100). -/
def execShl (ws : WSel) (_pol : Policy) (s : State) : Host.Outcome State Fault Refusal :=
  unaryCount ws s fun W a k => .ok ((Response.default ws).setRes0 (shiftLeftValue W a k))

/-- SHR (R101). -/
def execShr (ws : WSel) (_pol : Policy) (s : State) : Host.Outcome State Fault Refusal :=
  unaryCount ws s fun W a k => .ok ((Response.default ws).setRes0 (shiftRightValue W a k))

/-- AND (R103). -/
def execAnd (ws : WSel) (_pol : Policy) (s : State) : Host.Outcome State Fault Refusal :=
  binary ws s fun _ a b => .ok ((Response.default ws).setRes0 (a &&& b))

/-- OR (R104). -/
def execOr (ws : WSel) (_pol : Policy) (s : State) : Host.Outcome State Fault Refusal :=
  binary ws s fun W a b => .ok ((Response.default ws).setRes0 (maskTo W (a ||| b)))

/-- XOR (R105). -/
def execXor (ws : WSel) (_pol : Policy) (s : State) : Host.Outcome State Fault Refusal :=
  binary ws s fun _ a b => .ok ((Response.default ws).setRes0 (a ^^^ b))

/-- NOT (R106): the complement within the width. -/
def execNot (ws : WSel) (_pol : Policy) (s : State) : Host.Outcome State Fault Refusal :=
  unary ws s fun W a => .ok ((Response.default ws).setRes0 (maskOf W - a))

end Sys2Proof.Machine
end

