-- ==== Sys2Proof/Machine/Dispatch.lean ====
section
/-! DEFINITION. exec: one arm per command, each a direct call of its meaning. -/

namespace Sys2Proof.Machine

def exec (i : Instr) (s : State) : Host.Outcome State Fault Refusal :=
  match i with
  | .add ws pol => Sys2Proof.Machine.execAdd ws pol s
  | .sub ws pol => Sys2Proof.Machine.execSub ws pol s
  | .mul ws pol => Sys2Proof.Machine.execMul ws pol s
  | .div ws pol => Sys2Proof.Machine.execDiv ws pol s
  | .rem ws pol => Sys2Proof.Machine.execRem ws pol s
  | .divrem ws pol => Sys2Proof.Machine.execDivrem ws pol s
  | .inc ws pol => Sys2Proof.Machine.execInc ws pol s
  | .shl ws pol => Sys2Proof.Machine.execShl ws pol s
  | .shr ws pol => Sys2Proof.Machine.execShr ws pol s
  | .and ws pol => Sys2Proof.Machine.execAnd ws pol s
  | .or ws pol => Sys2Proof.Machine.execOr ws pol s
  | .xor ws pol => Sys2Proof.Machine.execXor ws pol s
  | .not ws pol => Sys2Proof.Machine.execNot ws pol s
  | .cmp ws pol => Sys2Proof.Machine.execCmp ws pol s
  | .eq ws pol => Sys2Proof.Machine.execEq ws pol s
  | .ne ws pol => Sys2Proof.Machine.execNe ws pol s
  | .lt ws pol => Sys2Proof.Machine.execLt ws pol s
  | .le ws pol => Sys2Proof.Machine.execLe ws pol s
  | .gt ws pol => Sys2Proof.Machine.execGt ws pol s
  | .ge ws pol => Sys2Proof.Machine.execGe ws pol s
  | .tobytes ws pol en => Sys2Proof.Machine.execTobytes ws pol en s
  | .frombytes ws pol en => Sys2Proof.Machine.execFrombytes ws pol en s
  | .tohex ws pol => Sys2Proof.Machine.execTohex ws pol s
  | .fromhex ws pol => Sys2Proof.Machine.execFromhex ws pol s

end Sys2Proof.Machine
end

