-- ==== Sys2Proof/Machine/Edge.lean ====
section
/-! DEFINITION. One rising edge of `clk`, given what the wires carry at it (10_state.md R30 to R35, R66, R127, R135). -/

namespace Sys2Proof.Machine

/-- The completing edge: the command word in LATCH is decoded and its command runs; an illegal word ends in
IllegalCommand, tagged with its own WSEL field as given (R63, R66, R115). -/
def runLatched (s : State) : Host.Outcome State Fault Refusal :=
  match decode s.latch.cmd with
  | .ok i => exec i s
  | .error _ => s.complete (errorResponse (wselField s.latch.cmd) .illegalCommand)

/-- One rising edge with the wires `p`, on the state whose wires have already moved on: reset first (R127), then the
command in flight (R34), then acceptance (R33), else nothing changes (R126). -/
def edge (p : Pins) (s : State) : Host.Outcome State Fault Refusal :=
  if p.rst then .next s.resetEdge
  else if s.busy then
    if s.cyclesLeft ≤ 1 then runLatched s else .next s.tick
  else if p.cmdValid then .next (s.accept p.ports)
  else .next s

end Sys2Proof.Machine
end

