-- ==== Sys2Proof/Machine/Step.lean ====
section
/-! DEFINITION. step: one rising edge of `clk`; and where the next command to run is put. -/

namespace Sys2Proof.Machine

/-- One rising edge of `clk` (R16), with the wires as the host drives them at it. -/
def step (s : State) : Host.Outcome State Fault Refusal := edge s.pins s.nextPins

/-- The state with a command word in LATCH, in flight and due at the coming edge, and that edge no reset edge: the block
fetches no instruction, and the word it runs is the one in LATCH (R15, R31, R52; log 10). -/
def State.withFetchWord (s : State) (nbits w : Nat) : State :=
  { s with
    latch := { s.latch with cmd := BitVec.ofNat 32 (w % 2 ^ nbits) }
    busy := true
    cyclesLeft := 1
    pins := { s.pins with rst := false } }

end Sys2Proof.Machine
end

