-- ==== Sys2Proof/Machine/Reference.lean ====
section
/-! DEFINITION. The spec's reference algorithms on limbs (R9, R73, R85, R88, R92, R95, R99, R102). No command calls them: the
meanings compute on naturals (R10), and the claims say that the two agree for every limb size. A precise width is the case
of one limb, its backing word. -/

namespace Sys2Proof.Machine.Reference

/-- Limb j of v (R9). -/
def limb (lb v j : Nat) : Nat := v / 2 ^ (lb * j) % 2 ^ lb

/-- The L limbs of v, least significant first (R9, R41). -/
def limbs (lb L v : Nat) : List Nat := (List.range L).map (limb lb v)

/-- The number whose limbs are given, least significant first. -/
def ofLimbs (lb : Nat) : List Nat → Nat
  | [] => 0
  | x :: xs => x + 2 ^ lb * ofLimbs lb xs

/-- L limbs of lb bits hold a value of width W: W fills the limbs, or one larger word backs it (R6, R9). -/
def Fits (lb L W : Nat) : Prop := 0 < lb ∧ (W = lb * L ∨ L = 1 ∧ W < lb)

/-- The limb size of a width in this configuration (R7). -/
def limbSize (W : Nat) : Nat := if isPrecise W then Config.preciseBackingBits else Config.limbBits

/-- The limb count of a width in this configuration (R9). -/
def limbCount (W : Nat) : Nat := if isPrecise W then 1 else W / Config.limbBits

/-- The comparator's scan, from the most significant limb (R73). -/
def scanTop : List Nat → List Nat → Ordering
  | x :: xs, y :: ys => if x < y then .lt else if y < x then .gt else scanTop xs ys
  | _, _ => .eq

/-- Compare on limbs (R73). -/
def compareLimbs (lb L a b : Nat) : Ordering := scanTop (limbs lb L a).reverse (limbs lb L b).reverse

/-- Ripple carry, least significant limb first (R85): the sum's limbs and the final carry. -/
def rippleAdd (lb : Nat) : List Nat → List Nat → Nat → List Nat × Nat
  | x :: xs, y :: ys, c =>
    let t := x + y + c
    let rest := rippleAdd lb xs ys (t / 2 ^ lb)
    (t % 2 ^ lb :: rest.1, rest.2)
  | _, _, c => ([], c)

/-- Add on limbs (R85): the masked sum and the overflow condition, the final carry where W fills the limbs, bit W of the
unmasked sum where one larger word backs it (90_conflicts.md C1). -/
def add (lb L W a b : Nat) : Nat × Bool :=
  let r := rippleAdd lb (limbs lb L a) (limbs lb L b) 0
  let s := ofLimbs lb r.1
  (maskTo W s, if W = lb * L then r.2 == 1 else s.testBit W)

/-- Ripple borrow (R88): the difference's limbs and the final borrow. -/
def rippleSub (lb : Nat) : List Nat → List Nat → Nat → List Nat × Nat
  | x :: xs, y :: ys, br =>
    let t : Int := (x : Int) - (y : Int) - (br : Int)
    let rest := rippleSub lb xs ys (if t < 0 then 1 else 0)
    ((if t < 0 then t + (2 ^ lb : Nat) else t).toNat :: rest.1, rest.2)
  | _, _, br => ([], br)

/-- Subtract on limbs (R88): the masked difference and the underflow condition. -/
def sub (lb L W a b : Nat) : Nat × Bool :=
  let r := rippleSub lb (limbs lb L a) (limbs lb L b) 0
  (maskTo W (ofLimbs lb r.1), r.2 == 1)

/-- One row of the schoolbook product (R92): the limb `x` of a against every limb of b, accumulated with carry; the last
carry goes to the limb above. -/
def mulRow (lb x : Nat) : List Nat → List Nat → Nat → List Nat
  | [], acc, c => c :: acc.tail
  | y :: ys, acc, c =>
    let t := acc.headD 0 + x * y + c
    t % 2 ^ lb :: mulRow lb x ys acc.tail (t / 2 ^ lb)

/-- The double loop of R92 on the scratch buffer `acc`; a row's lowest limb is final. -/
def mulRows (lb : Nat) : List Nat → List Nat → List Nat → List Nat
  | [], _, acc => acc
  | x :: xs, bs, acc =>
    let row := mulRow lb x bs acc 0
    row.headD 0 :: mulRows lb xs bs row.tail

/-- The exact product by schoolbook multiplication, in a double-width scratch buffer of zeros (R92). -/
def product (lb L a b : Nat) : Nat :=
  ofLimbs lb (mulRows lb (limbs lb L a) (limbs lb L b) (List.replicate (2 * L) 0))

/-- Multiply on limbs (R92): the masked product and the overflow condition. -/
def mul (lb L W a b : Nat) : Nat × Bool :=
  (maskTo W (product lb L a b), decide (2 ^ W ≤ product lb L a b))

/-- The loop of LongDiv (R95): `i` dividend bits are still to come; `q` and `r` so far. -/
def longDivLoop (a b : Nat) : Nat → Nat → Nat → Nat × Nat
  | 0, q, r => (q, r)
  | i + 1, q, r =>
    let r' := 2 * r + a / 2 ^ i % 2
    if b ≤ r' then longDivLoop a b i (q + 2 ^ i) (r' - b) else longDivLoop a b i q r'

/-- LongDiv(a, b) at width W (R95): quotient and remainder. -/
def longDiv (W a b : Nat) : Nat × Nat := longDivLoop a b W 0 0

/-- ShiftLeft on limbs (R99). -/
def shiftLeft (lb L W a k : Nat) : Nat :=
  if W ≤ k then 0
  else
    let q := k / lb
    let m := k % lb
    maskTo W (ofLimbs lb ((List.range L).map fun j =>
      ((if q ≤ j then limb lb a (j - q) * 2 ^ m else 0)
        + (if q + 1 ≤ j ∧ 0 < m then limb lb a (j - q - 1) / 2 ^ (lb - m) else 0)) % 2 ^ lb))

/-- ShiftRight on limbs (R99). -/
def shiftRight (lb L W a k : Nat) : Nat :=
  if W ≤ k then 0
  else
    let q := k / lb
    let m := k % lb
    ofLimbs lb ((List.range L).map fun j =>
      (if j + q ≤ L - 1 then limb lb a (j + q) / 2 ^ m else 0)
        + (if j + q + 1 ≤ L - 1 ∧ 0 < m then limb lb a (j + q + 1) * 2 ^ (lb - m) % 2 ^ lb else 0))

/-- A bitwise operator per limb, masked to the width afterward (R102). -/
def bitwise (f : Nat → Nat → Nat) (lb L W a b : Nat) : Nat :=
  maskTo W (ofLimbs lb (List.zipWith f (limbs lb L a) (limbs lb L b)))

/-- Complement per limb, masked to the width afterward (R102, R106). -/
def complement (lb L W a : Nat) : Nat :=
  maskTo W (ofLimbs lb ((limbs lb L a).map fun x => maskOf lb - x))

end Sys2Proof.Machine.Reference
end

