-- ==== Sys2Proof/Safety.lean ====
section
/-! DEFINITION. What a state of the unit always satisfies, and what a run and a safe outcome are (R8, R21 to R27, R30, R32, R115). -/

namespace Sys2Proof.Machine

/-- A result register obeys the value invariant of its width (R8, R21); under the reserved tag it holds 0 (R115). -/
def resultFits (x : Tagged) : Bool :=
  match widthOf x.wsel with
  | some W => decide (x.nat < 2 ^ W)
  | none => decide (x.nat = 0)

/-- OUT is 0 from OUT_LEN on (R23). -/
def Response.outPadded (r : Response) : Prop :=
  ∀ (i : Nat) (h : i < bufBytes), r.outLen.toNat ≤ i → r.out[i] = 0#8

/-- The response is one that the block can produce: values and tags (R8, R22), buffer (R23), STATUS (R24 to R27), and a
failed response carries nothing else (R115). -/
structure Response.Wf (r : Response) : Prop where
  sameTag : r.res1.wsel = r.res0.wsel
  res0Fits : resultFits r.res0 = true
  res1Fits : resultFits r.res1 = true
  outLen : r.outLen.toNat ≤ bufBytes
  outPadded : r.outPadded
  reserved : statusReserved r.status = 0#24
  errKnown : (statusErr r.status).toNat ≤ 10
  predNeedsOrd : statusPred r.status = true → statusOrd r.status ≠ 0#2
  ordNeedsNoOvf : statusOrd r.status ≠ 0#2 → statusOvf r.status = false
  failed : statusErr r.status ≠ 0#4 →
    r.res0.nat = 0 ∧ r.res1.nat = 0 ∧ r.outLen = 0#9 ∧ statusOrd r.status = 0#2 ∧
      (statusOvf r.status = true ↔ statusErr r.status = ErrCode.overflow.code ∨ statusErr r.status = ErrCode.underflow.code)

/-- The invariant of the unit: a response the block can produce; a command in flight has from 1 to LAT_MAX edges left and
its response is not valid yet (R30, R32, R34); with none in flight none are left. -/
structure State.Inv (s : State) : Prop where
  rsp : s.rsp.Wf
  inFlight : s.busy = true → 1 ≤ s.cyclesLeft ∧ s.cyclesLeft ≤ Config.latMax ∧ s.rspValid = false
  atRest : s.busy = false → s.cyclesLeft = 0

/-- `n` rising edges one after another, stopping at the first stop. -/
def runEdges : Nat → State → Host.Outcome State Fault Refusal
  | 0, s => .next s
  | n + 1, s =>
    match step s with
    | .next t => runEdges n t
    | .fault r => .fault r
    | .refused r => .refused r

/-- A safe outcome: the unit goes on, in a state that keeps the invariant (R113, R120). -/
def SafeOutcome : Host.Outcome State Fault Refusal → Prop
  | .next t => t.Inv
  | .fault _ => False
  | .refused _ => False

end Sys2Proof.Machine
end

