-- ==== Sys2Proof/Certificates/Slice0/Obligations.lean ====
section
/-! DEFINITION. The statements for the provers, each from a rule of spec/. No statement is about what LATCH holds once no
command is in flight, nor about how many free values have been drawn: both are open (logs 3 and 4). -/

namespace Sys2Proof.Claims

open Sys2Proof.Machine

/-! ### Vocabulary -/

/-- The command completed on `s` with the response `r`: BUSY 0, RSP_VALID 1, all response registers as `r` says, and the
host's wires as they were. -/
def CompletesWith (o : Host.Outcome State Fault Refusal) (s : State) (r : Response) : Prop :=
  ∃ t, o = .next t ∧ t.rsp = r ∧ t.busy = false ∧ t.rspValid = true ∧ t.pins = s.pins ∧ t.hostNext = s.hostNext

/-- The step answered a state that shows the completed response `r`. -/
def ShowsResponse (o : Host.Outcome State Fault Refusal) (r : Response) : Prop :=
  ∃ t, o = .next t ∧ t.rsp = r ∧ t.busy = false ∧ t.rspValid = true

/-- The response RES0 = (ws, v0), RES1 = (ws, v1), STATUS = st, with nothing in OUT. -/
def reply (ws : WSel) (v0 v1 : Nat) (st : BitVec 32) : Response where
  res0 := ⟨ws, BitVec.ofNat 1024 v0⟩
  res1 := ⟨ws, BitVec.ofNat 1024 v1⟩
  out := Vector.replicate 256 0#8
  outLen := 0#9
  status := st

/-- The response whose OUT holds `f 0` to `f (n-1)` and zeros after them, OUT_LEN = n, and no value and no flag. -/
def IsOutput (ws : WSel) (n : Nat) (f : Nat → Byte) (r : Response) : Prop :=
  r.res0 = ⟨ws, 0#1024⟩ ∧ r.res1 = ⟨ws, 0#1024⟩ ∧ r.status = 0#32 ∧ r.outLen.toNat = n ∧
    ∀ (i : Nat) (h : i < 256), r.out[i] = if i < n then f i else 0#8

/-- Operand A as a number. -/
abbrev valA (s : State) : Nat := s.latch.a.val.toNat

/-- Operand B as a number. -/
abbrev valB (s : State) : Nat := s.latch.b.val.toNat

/-- The shift count. -/
abbrev count (s : State) : Nat := s.latch.k.toNat

/-- `in_len`. -/
abbrev inLen (s : State) : Nat := s.latch.inLen.toNat

/-- IN[i]. -/
abbrev inAt (s : State) (i : Nat) : Byte := (s.latch.inBytes[i]?).getD 0

/-- A tagged value that passes the checks at the width W of code ws. -/
abbrev Valid (ws : WSel) (W : Nat) (x : Tagged) : Prop := x.wsel = ws ∧ x.val.toNat < 2 ^ W

/-- Operand A passes the checks. -/
abbrev UnaryReady (ws : WSel) (W : Nat) (s : State) : Prop := widthOf ws = some W ∧ Valid ws W s.latch.a

/-- Operands A and B pass the checks. -/
abbrev BinaryReady (ws : WSel) (W : Nat) (s : State) : Prop :=
  widthOf ws = some W ∧ Valid ws W s.latch.a ∧ Valid ws W s.latch.b

/-- All operands of a command pass the checks, by its operand class. -/
def Ready (i : Instr) (W : Nat) (s : State) : Prop :=
  match i.operandClass with
  | .binary => BinaryReady i.wsel W s
  | .unary => UnaryReady i.wsel W s
  | .none => widthOf i.wsel = some W

/-- The number of a policy in the command word (R57). -/
def policyNum : Policy → Nat
  | .checked => 0
  | .wrapping => 1
  | .saturating => 2

/-- The number of a byte order in the command word (R58). -/
def endianNum : Endian → Nat
  | .big => 0
  | .little => 1

/-- OPCODE + 2^8·WSEL + 2^11·POLICY + 2^13·ENDIAN (R55). -/
def word (op : Nat) (ws : WSel) (pol : Policy) (en : Nat) : CmdWord :=
  BitVec.ofNat 32 (op + 2 ^ 8 * ws.toNat + 2 ^ 11 * policyNum pol + 2 ^ 13 * en)

/-- The command of legal width is the one its word decodes to. -/
def Encoded (i : Instr) (w : CmdWord) : Prop := i.wf = true → decode w = .ok i

/-- The errors a command's operands raise, `xs` being those it reads: WidthMismatch for a wrong tag, InvalidOperand for a
value at or above 2^W when all tags are right. -/
def OperandErrors (i : Instr) (xs : List Tagged) (s : State) : Prop :=
  ∀ W, widthOf i.wsel = some W →
    ((∃ x ∈ xs, x.wsel ≠ i.wsel) → CompletesWith (exec i s) s (reply i.wsel 0 0 0x04#32)) ∧
    ((∀ x ∈ xs, x.wsel = i.wsel) → (∃ x ∈ xs, 2 ^ W ≤ x.val.toNat) →
      CompletesWith (exec i s) s (reply i.wsel 0 0 0x0A#32))

/-- The response of ADD, SUB, INC or MUL: `exact` when nothing is out of range, else what the policy says (R83). -/
def underPolicy (ws : WSel) (pol : Policy) (outOfRange : Bool) (exact wrapped bound : Nat) (err : BitVec 32) : Response :=
  if outOfRange then
    match pol with
    | .checked => reply ws 0 0 err
    | .wrapping => reply ws wrapped 0 0x10#32
    | .saturating => reply ws bound 0 0x10#32
  else reply ws exact 0 0x00#32

/-- STATUS after a comparison of a with b whose predicate is `p` (R24, R26, R27). -/
def compareStatus (a b : Nat) (p : Bool) : BitVec 32 :=
  (if a < b then 0x20#32 else if a = b then 0x40#32 else 0x60#32) + if p then 0x80#32 else 0#32

/-- The rule of one relational command (R76 to R81): `op` its opcode, `rel` its relation. -/
def RelationalRule (i : Instr) (op : Nat) (rel : Nat → Nat → Bool) (s : State) : Prop :=
  Encoded i (word op i.wsel i.policy 0) ∧ OperandErrors i [s.latch.a, s.latch.b] s ∧
  ∀ W, BinaryReady i.wsel W s →
    CompletesWith (exec i s) s (reply i.wsel 0 0 (compareStatus (valA s) (valB s) (rel (valA s) (valB s))))

/-- `c` is the ASCII code of the hex digit of value `d`, in either case (R107). -/
def IsHex (c : Byte) (d : Nat) : Prop :=
  0x30 ≤ c.toNat ∧ c.toNat ≤ 0x39 ∧ d = c.toNat - 0x30 ∨
  0x61 ≤ c.toNat ∧ c.toNat ≤ 0x66 ∧ d = c.toNat - 0x61 + 10 ∨
  0x41 ≤ c.toNat ∧ c.toNat ≤ 0x46 ∧ d = c.toNat - 0x41 + 10

/-- The lowercase hex digit of a nibble, in ASCII (R107). -/
def lowerHex (d : Nat) : Byte := BitVec.ofNat 8 (if d ≤ 9 then 0x30 + d else 0x61 + (d - 10))

/-- `n` leading bytes of IN as a number, in the given byte order (R109). -/
def inNumber (en : Endian) (n : Nat) (s : State) : Nat :=
  Finset.sum (Finset.range n) fun i =>
    (inAt s i).toNat * 2 ^ (8 * match en with | .big => n - 1 - i | .little => i)

/-- The command in flight completes at the coming edge. -/
def Completing (s : State) : Prop := s.pins.rst = false ∧ s.busy = true ∧ s.cyclesLeft ≤ 1

/-- The state with the host's wires moved on: the next scheduled ones, or the same (log 2). -/
def wiresMoved (s : State) : State :=
  match s.hostNext with
  | [] => s
  | p :: ps => { s with pins := p, hostNext := ps }

/-- `r` is Exec(LATCH) for the sample `p` (R66): the response it has right after reset. -/
def ExecLatch (p : Ports) (r : Response) : Prop :=
  ∃ t, runLatched { State.reset with latch := p, busy := true, cyclesLeft := 1 } = .next t ∧ t.rsp = r

/-- A word R63 calls illegal, in numbers. -/
def IllegalWord (w : CmdWord) : Prop :=
  w.toNat % 2 ^ 8 ∉ [0x01, 0x02, 0x03, 0x04, 0x05, 0x06, 0x07, 0x10, 0x11, 0x20, 0x21, 0x22, 0x23, 0x30, 0x31, 0x32, 0x33,
    0x34, 0x35, 0x36, 0x40, 0x41, 0x42, 0x43] ∨
  w.toNat / 2 ^ 8 % 2 ^ 3 = 7 ∨ w.toNat / 2 ^ 11 % 2 ^ 2 = 3 ∨ w.toNat / 2 ^ 14 ≠ 0 ∨
  w.toNat / 2 ^ 13 % 2 = 1 ∧ w.toNat % 2 ^ 8 ≠ 0x40 ∧ w.toNat % 2 ^ 8 ≠ 0x41

/-- The overflow condition of a command whose operands pass the checks (R84, R87, R91); none but these four has one. -/
def outOfRange (i : Instr) (W : Nat) (s : State) : Bool :=
  match i with
  | .add _ _ => decide (2 ^ W ≤ valA s + valB s)
  | .inc _ _ => decide (2 ^ W ≤ valA s + 1)
  | .mul _ _ => decide (2 ^ W ≤ valA s * valB s)
  | .sub _ _ => decide (valA s < valB s)
  | _ => false

/-- The relation a comparator command puts into PRED, if the command is a comparator (R26, R27). -/
def relationOf : Instr → Option (Nat → Nat → Bool)
  | .cmp _ _ => some fun _ _ => false
  | .eq _ _ => some fun a b => decide (a = b)
  | .ne _ _ => some fun a b => decide (a ≠ b)
  | .lt _ _ => some fun a b => decide (a < b)
  | .le _ _ => some fun a b => decide (a ≤ b)
  | .gt _ _ => some fun a b => decide (b < a)
  | .ge _ _ => some fun a b => decide (b ≤ a)
  | _ => none

/-- The command writes OUT (R23). -/
def writesOut : Instr → Bool
  | .tobytes _ _ _ => true
  | .tohex _ _ => true
  | _ => false

/-- The command reads the shift count (R61). -/
def readsCount : Instr → Bool
  | .shl _ _ => true
  | .shr _ _ => true
  | _ => false

/-- Two samples hold the same in all that the command reads (R19, R61). -/
def AgreeOnRead (i : Instr) (p q : Ports) : Prop :=
  (i.operandClass ≠ .none → p.a = q.a) ∧ (i.operandClass = .binary → p.b = q.b) ∧ (readsCount i = true → p.k = q.k) ∧
  (i.operandClass = .none → p.inLen = q.inLen ∧ ∀ j : Nat, j < p.inLen.toNat → p.inBytes[j]? = q.inBytes[j]?)

/-- Two states show and will do the same, whatever an idle LATCH holds. -/
def SameButIdleLatch (s t : State) : Prop :=
  s.busy = t.busy ∧ s.rspValid = t.rspValid ∧ s.rsp = t.rsp ∧ s.pins = t.pins ∧ s.hostNext = t.hostNext ∧
    s.cyclesLeft = t.cyclesLeft ∧ (s.busy = true → s.latch = t.latch)

/-- The order of two byte sequences by their first difference. -/
def lexOrder : List Byte → List Byte → Ordering
  | x :: xs, y :: ys => if x.toNat < y.toNat then .lt else if y.toNat < x.toNat then .gt else lexOrder xs ys
  | _, _ => .eq

/-- A hex letter 'A' to 'F' in lower case; every other byte as it is. The ASCII codes are PRESUMED (log 8). -/
def toLower (c : Byte) : Byte := if 0x41 ≤ c.toNat ∧ c.toNat ≤ 0x46 then c + 0x20#8 else c

end Sys2Proof.Claims

open Sys2Proof Sys2Proof.Machine Sys2Proof.Claims

/-! ### Reset, handshake, one edge -/

/-- R37: the value of every register after reset but LATCH's, which the spec leaves unspecified. -/
def Obligations.ResetStateHoldsResetValues : Prop :=
  State.reset.busy = false ∧ State.reset.rspValid = false ∧ State.reset.rsp.res0 = ⟨0#3, 0#1024⟩ ∧
  State.reset.rsp.res1 = ⟨0#3, 0#1024⟩ ∧ (∀ (i : Nat) (h : i < 256), State.reset.rsp.out[i] = 0#8) ∧
  State.reset.rsp.outLen = 0#9 ∧ State.reset.rsp.status = 0#32 ∧
  ∀ p : Pins, p.rst = false → { State.reset with pins := p }.cmdReady = true

/-- R127, R128: at an edge with `rst` = 1 every register takes its reset value from any state, `cmd_ready` is 0, and a
command in flight leaves no response: none is in flight after the edge. -/
def Obligations.ResetEdgeRestoresResetValues : Prop :=
  ∀ s : State, s.pins.rst = true →
    s.cmdReady = false ∧
    ∃ t, step s = .next t ∧ t.busy = false ∧ t.rspValid = false ∧ t.rsp = State.reset.rsp

/-- R33: at an edge with `rst` = 0, `cmd_valid` = 1 and `cmd_ready` = 1 the ports are latched, BUSY <- 1, RSP_VALID <- 0 and
the response registers keep the previous response; at an edge with `cmd_valid` = 0 or `cmd_ready` = 0 no command becomes
busy and the registers do not depend on the operand and command ports. -/
def Obligations.AcceptanceLatchesThePorts : Prop :=
  (∀ s : State, s.pins.rst = false → s.pins.cmdValid = true → s.cmdReady = true →
    ∃ t, step s = .next t ∧ t.latch = s.pins.ports ∧ t.busy = true ∧ t.rspValid = false ∧ t.rsp = s.rsp) ∧
  (∀ (s : State) (p : Ports), s.pins.cmdValid = false ∨ s.cmdReady = false →
    ∃ t u, step s = .next t ∧ step { s with pins := { s.pins with ports := p } } = .next u ∧
      (t.busy = true → s.busy = true) ∧ u.busy = t.busy ∧ u.rspValid = t.rspValid ∧ u.rsp = t.rsp ∧ u.latch = t.latch ∧
      u.cyclesLeft = t.cyclesLeft)

/-- R35, R126, and of the wires log 2: with no command in flight, none presented and no reset, an edge changes nothing but the host's wires. -/
def Obligations.RestingEdgeHoldsTheRegisters : Prop :=
  ∀ s : State, s.pins.rst = false → s.busy = false → s.pins.cmdValid = false → step s = .next (wiresMoved s)

/-- R30, R31, R35, and the model's own wires and counter (logs 2 and 4): while a command is in flight and not due, an edge
without reset changes no register and accepts nothing, whatever the host presents. -/
def Obligations.InFlightEdgeHoldsTheRegisters : Prop :=
  ∀ s : State, s.pins.rst = false → s.busy = true → 1 < s.cyclesLeft →
    step s = .next { wiresMoved s with cyclesLeft := s.cyclesLeft - 1 }

/-- R35: the response registers change at a completing edge or a reset edge and at no other edge. -/
def Obligations.ResponseChangesOnlyAtCompletionOrReset : Prop :=
  ∀ s : State, ∃ t, step s = .next t ∧ (t.rsp ≠ s.rsp → s.pins.rst = true ∨ Completing s) ∧
    (Completing s → ExecLatch s.latch t.rsp)

/-- At the completing edge a step is `exec` of the command the word in LATCH decodes to, on the state whose wires have
moved on to what the host drives next (log 2). -/
def Obligations.StepRunsTheDecodedCommand : Prop :=
  ∀ (s : State) (i : Instr), s.pins.rst = false → s.busy = true → s.cyclesLeft ≤ 1 → decode s.latch.cmd = .ok i →
    step s = exec i (match s.hostNext with | [] => s | p :: ps => { s with pins := p, hostNext := ps })

/-- R63: the decoder rejects exactly the illegal words, and an illegal word completes with IllegalCommand, tagged with its
own WSEL, whatever the operand ports held. -/
def Obligations.IllegalWordsFailWithIllegalCommand : Prop :=
  (∀ w : CmdWord, IllegalWord w ↔ ∃ e, decode w = .error e) ∧
  ∀ s : State, Completing s → IllegalWord s.latch.cmd →
    ShowsResponse (step s) (reply (s.latch.cmd.extractLsb' 8 3) 0 0 0x09#32)

/-- R63 for the command as a term (log 6): a meaning whose width code has no width completes with IllegalCommand. -/
def Obligations.ReservedWidthCodeIsIllegal : Prop :=
  ∀ (i : Instr) (s : State), widthOf i.wsel = none → CompletesWith (exec i s) s (reply i.wsel 0 0 0x09#32)

/-- R34: a command accepted at an edge completes LAT edges later, if no reset intervenes, with the response of R66; until
then the previous response stays and `rsp_valid` is 0 (R35, R133). LAT is a free value from 1 to LAT_MAX; that it is a
function of the accepted ports is the model's (DEDUCED, log 4). -/
def Obligations.AcceptedCommandCompletesAfterItsLatency : Prop :=
  ∀ s : State, s.pins.rst = false → s.pins.cmdValid = true → s.busy = false → (∀ p ∈ s.hostNext, p.rst = false) →
    1 ≤ Config.lat s.pins.ports ∧ Config.lat s.pins.ports ≤ Config.latMax ∧
    (∀ k, 1 ≤ k → k ≤ Config.lat s.pins.ports →
      ∃ m : State, runEdges k s = .next m ∧ m.busy = true ∧ m.latch = s.pins.ports ∧ m.rspValid = false ∧
        m.rsp = s.rsp) ∧
    ∃ t : State, runEdges (Config.lat s.pins.ports + 1) s = .next t ∧ t.busy = false ∧ t.rspValid = true ∧
      ExecLatch s.pins.ports t.rsp

/-- R36: the response is a function of LATCH alone. -/
def Obligations.ResponseDependsOnLatchAlone : Prop :=
  ∀ s s' : State, Completing s → Completing s' → s.latch = s'.latch →
    ∃ t t', step s = .next t ∧ step s' = .next t' ∧ t.rsp = t'.rsp

/-- R113, R118, R120: no step stops: every edge from every state goes on, with no fault and no refusal; the host's wires
move on as log 2 says. -/
def Obligations.EveryStepAnswersANextState : Prop :=
  ∀ s : State, ∃ t, step s = .next t ∧ t.pins = (wiresMoved s).pins ∧ t.hostNext = (wiresMoved s).hostNext

/-- The state after reset meets the invariant of Safety.lean. -/
def Obligations.ResetMeetsTheInvariant : Prop := State.reset.Inv

/-- Every edge from a state that meets the invariant ends in one that meets it: results stay within their width (R8), OUT is
0 from OUT_LEN on (R23), STATUS stays well-formed with ERR at most 10 and its reserved bits 0 (R24, R114), a failed response
carries nothing else (R115), and a command in flight is due within LAT_MAX edges (R34). -/
def Obligations.StepKeepsTheInvariant : Prop := ∀ s : State, s.Inv → SafeOutcome (step s)

/-- R31: what LATCH holds while no command is in flight cannot be observed: two states that differ in nothing else show the
same outputs and step to two such states. -/
def Obligations.IdleLatchIsUnobservable : Prop :=
  ∀ s s' : State, SameButIdleLatch s s' →
    s.outputs = s'.outputs ∧ ∃ t t', step s = .next t ∧ step s' = .next t' ∧ SameButIdleLatch t t'

/-! ### The response registers, over all commands -/

/-- R22: every completion tags both results with the command word's WSEL field. -/
def Obligations.ResultTagIsTheCommandsWsel : Prop :=
  ∀ s : State, Completing s →
    ∃ t, step s = .next t ∧ t.rsp.res0.wsel = s.latch.cmd.extractLsb' 8 3 ∧ t.rsp.res1.wsel = s.latch.cmd.extractLsb' 8 3

/-- R21: RES1 is zero after every command but DIVREM. -/
def Obligations.OnlyDivremWritesRes1 : Prop :=
  ∀ (i : Instr) (s : State), (∀ ws pol, i ≠ .divrem ws pol) →
    ∃ t, exec i s = .next t ∧ t.rsp.res1 = ⟨i.wsel, 0#1024⟩

/-- R23: OUT is 0 from OUT_LEN on, and OUT_LEN is 0 after every command but a TOBYTES or TOHEX that does not fail. -/
def Obligations.OnlyTobytesAndTohexWriteOut : Prop :=
  ∀ (i : Instr) (s : State),
    ∃ t, exec i s = .next t ∧ (∀ (j : Nat) (h : j < 256), t.rsp.outLen.toNat ≤ j → t.rsp.out[j] = 0#8) ∧
      (t.rsp.outLen ≠ 0#9 → writesOut i = true ∧ ∃ W, Ready i W s)

/-- R25: at a completion, OVF is the exact overflow or underflow condition of an ADD, INC, MUL or SUB whose operands pass
the checks, under every policy, and 0 otherwise; under the checked policy that condition also sets ERR. -/
def Obligations.OvfIsTheExactCondition : Prop :=
  ∀ s : State, Completing s →
    ∃ t, step s = .next t ∧
      (t.rsp.status.getLsbD 4 = true ↔
        ∃ i W, decode s.latch.cmd = .ok i ∧ Ready i W s ∧ outOfRange i W s = true) ∧
      (∀ i W, decode s.latch.cmd = .ok i → Ready i W s → outOfRange i W s = true → i.policy = .checked →
        t.rsp.status.extractLsb' 0 4 ≠ 0#4)

/-- R26, R27: at a completion, ORD and PRED hold the comparator's result if the command is a comparator that does not fail,
and 0 otherwise. -/
def Obligations.OrdAndPredBelongToTheComparator : Prop :=
  ∀ s : State, Completing s →
    ∃ t, step s = .next t ∧
      (∀ i W rel, decode s.latch.cmd = .ok i → Ready i W s → relationOf i = some rel →
        t.rsp.status.extractLsb' 5 2 = (if valA s < valB s then 0b01#2 else if valA s = valB s then 0b10#2 else 0b11#2) ∧
        t.rsp.status.getLsbD 7 = rel (valA s) (valB s)) ∧
      ((∀ i W, decode s.latch.cmd = .ok i → Ready i W s → relationOf i = none) →
        t.rsp.status.extractLsb' 5 2 = 0b00#2 ∧ t.rsp.status.getLsbD 7 = false)

/-- R61, R19: the ports a command does not read, and IN from `in_len` on, are ignored. -/
def Obligations.UnreadPortsAreIgnored : Prop :=
  ∀ (i : Instr) (s : State) (p : Ports), AgreeOnRead i s.latch p →
    ∃ t t', exec i s = .next t ∧ exec i { s with latch := p } = .next t' ∧ t.rsp = t'.rsp

/-- R64, R65: at the completing edge of a legal command, a wrong tag of an operand it reads is WidthMismatch before any
value is checked; with the tags right, a value at or above 2^W is InvalidOperand before the command's own errors. -/
def Obligations.OperandChecksComeBeforeTheCommand : Prop :=
  ∀ (s : State) (i : Instr) (W : Nat) (xs : List Tagged), Completing s → decode s.latch.cmd = .ok i →
    widthOf i.wsel = some W →
    (xs = match i.operandClass with | .binary => [s.latch.a, s.latch.b] | .unary => [s.latch.a] | .none => []) →
    ((∃ x ∈ xs, x.wsel ≠ i.wsel) → ShowsResponse (step s) (reply i.wsel 0 0 0x04#32)) ∧
    ((∀ x ∈ xs, x.wsel = i.wsel) → (∃ x ∈ xs, 2 ^ W ≤ x.val.toNat) →
      ShowsResponse (step s) (reply i.wsel 0 0 0x0A#32))

/-! ### Encoding -/

/-- R6, R56: the width codes, the width classes and the byte counts. -/
def Obligations.WidthCodesAndClasses : Prop :=
  (widthOf 0 = some 5 ∧ widthOf 1 = some 6 ∧ widthOf 2 = some 7 ∧ widthOf 3 = some 24 ∧ widthOf 4 = some 256 ∧
    widthOf 5 = some 512 ∧ widthOf 6 = some 1024 ∧ widthOf 7 = none) ∧
  (∀ W ∈ [5, 6, 7, 24], isPrecise W = true ∧ isWide W = false) ∧
  (∀ W ∈ [256, 512, 1024], isWide W = true ∧ isPrecise W = false) ∧
  (∀ W ∈ [5, 6, 7], isByteAligned W = false) ∧ (∀ W ∈ [24, 256, 512, 1024], isByteAligned W = true) ∧
  [5, 6, 7, 24, 256, 512, 1024].map nbytes = [1, 1, 1, 3, 32, 64, 128]

/-- R55 to R62: decoding the encoding of a command of legal width gives it back, with every operand. -/
def Obligations.DecodeOfEncode : Prop := ∀ i : Instr, i.wf = true → decode (encode i) = .ok i

/-- R55 to R63: a word that decodes is the encoding of a command of legal width: no two words are one command, and no bit of
a word is dropped. -/
def Obligations.EncodeOfDecode : Prop := ∀ (w : CmdWord) (i : Instr), decode w = .ok i → i.wf = true ∧ encode i = w

/-- Command words written out in 30_encoding.md R68 and 95_test_vectors.md decode to what they are written for. Which reason
a rejected word is given is the model's own (DESIGN CHOICE, log 9). -/
def Obligations.WordsOfTheSpecDecode : Prop :=
  decode 0x00000C01#32 = .ok (.add 4 .wrapping) ∧ decode 0x00002341#32 = .ok (.frombytes 3 .checked .little) ∧
  decode 0x00000403#32 = .ok (.mul 4 .checked) ∧ decode 0x00000430#32 = .ok (.cmp 4 .checked) ∧
  decode 0x00001310#32 = .ok (.shl 3 .saturating) ∧ decode 0x00000642#32 = .ok (.tohex 6 .checked) ∧
  decode 0x00001801#32 = .error .reservedPolicy ∧ decode 0x00000701#32 = .error .reservedWidth ∧
  decode 0x80000001#32 = .error .reservedBits ∧ decode 0x00002001#32 = .error .endianNotAllowed ∧
  decode 0x00000000#32 = .error .unknownOpcode

/-! ### Add, subtract, increment -/

/-- R86. -/
def Obligations.AddFollowsItsRule : Prop :=
  ∀ (ws : WSel) (pol : Policy) (s : State),
    Encoded (.add ws pol) (word 0x01 ws pol 0) ∧ OperandErrors (.add ws pol) [s.latch.a, s.latch.b] s ∧
    ∀ W, BinaryReady ws W s →
      CompletesWith (exec (.add ws pol) s) s
        (underPolicy ws pol (decide (2 ^ W ≤ valA s + valB s)) (valA s + valB s) ((valA s + valB s) % 2 ^ W) (2 ^ W - 1)
          0x11#32)

/-- R89. -/
def Obligations.SubFollowsItsRule : Prop :=
  ∀ (ws : WSel) (pol : Policy) (s : State),
    Encoded (.sub ws pol) (word 0x02 ws pol 0) ∧ OperandErrors (.sub ws pol) [s.latch.a, s.latch.b] s ∧
    ∀ W, BinaryReady ws W s →
      CompletesWith (exec (.sub ws pol) s) s
        (underPolicy ws pol (decide (valA s < valB s)) (valA s - valB s) (valA s + 2 ^ W - valB s) 0 0x12#32)

/-- R90. -/
def Obligations.IncFollowsItsRule : Prop :=
  ∀ (ws : WSel) (pol : Policy) (s : State),
    Encoded (.inc ws pol) (word 0x07 ws pol 0) ∧ OperandErrors (.inc ws pol) [s.latch.a] s ∧
    ∀ W, UnaryReady ws W s →
      CompletesWith (exec (.inc ws pol) s) s
        (underPolicy ws pol (decide (valA s = 2 ^ W - 1)) (valA s + 1) 0 (2 ^ W - 1) 0x11#32)

/-- R90: INC is ADD with B = 1 of the same width. -/
def Obligations.IncIsAddOfOne : Prop :=
  ∀ (ws : WSel) (pol : Policy) (W : Nat) (s : State), UnaryReady ws W s →
    ∃ t t', exec (.inc ws pol) s = .next t ∧
      exec (.add ws pol) { s with latch := { s.latch with b := ⟨ws, 1#1024⟩ } } = .next t' ∧ t.rsp = t'.rsp

/-! ### Multiply, divide, remainder -/

/-- R93. -/
def Obligations.MulFollowsItsRule : Prop :=
  ∀ (ws : WSel) (pol : Policy) (s : State),
    Encoded (.mul ws pol) (word 0x03 ws pol 0) ∧ OperandErrors (.mul ws pol) [s.latch.a, s.latch.b] s ∧
    ∀ W, BinaryReady ws W s →
      CompletesWith (exec (.mul ws pol) s) s
        (underPolicy ws pol (decide (2 ^ W ≤ valA s * valB s)) (valA s * valB s) (valA s * valB s % 2 ^ W) (2 ^ W - 1)
          0x11#32)

/-- R96. -/
def Obligations.DivFollowsItsRule : Prop :=
  ∀ (ws : WSel) (pol : Policy) (s : State),
    Encoded (.div ws pol) (word 0x04 ws pol 0) ∧ OperandErrors (.div ws pol) [s.latch.a, s.latch.b] s ∧
    ∀ W, BinaryReady ws W s →
      CompletesWith (exec (.div ws pol) s) s
        (if valB s = 0 then reply ws 0 0 0x03#32 else reply ws (valA s / valB s) 0 0x00#32)

/-- R97. -/
def Obligations.RemFollowsItsRule : Prop :=
  ∀ (ws : WSel) (pol : Policy) (s : State),
    Encoded (.rem ws pol) (word 0x05 ws pol 0) ∧ OperandErrors (.rem ws pol) [s.latch.a, s.latch.b] s ∧
    ∀ W, BinaryReady ws W s →
      CompletesWith (exec (.rem ws pol) s) s
        (if valB s = 0 then reply ws 0 0 0x03#32 else reply ws (valA s % valB s) 0 0x00#32)

/-- R98. -/
def Obligations.DivremFollowsItsRule : Prop :=
  ∀ (ws : WSel) (pol : Policy) (s : State),
    Encoded (.divrem ws pol) (word 0x06 ws pol 0) ∧ OperandErrors (.divrem ws pol) [s.latch.a, s.latch.b] s ∧
    ∀ W, BinaryReady ws W s →
      CompletesWith (exec (.divrem ws pol) s) s
        (if valB s = 0 then reply ws 0 0 0x03#32 else reply ws (valA s / valB s) (valA s % valB s) 0x00#32)

/-- R94: division by zero is DivisionByZero for DIV, REM and DIVREM under every policy. -/
def Obligations.DivisionByZeroIsAlwaysReported : Prop :=
  ∀ (ws : WSel) (pol : Policy) (W : Nat) (s : State), BinaryReady ws W s → valB s = 0 →
    CompletesWith (exec (.div ws pol) s) s (reply ws 0 0 0x03#32) ∧
    CompletesWith (exec (.rem ws pol) s) s (reply ws 0 0 0x03#32) ∧
    CompletesWith (exec (.divrem ws pol) s) s (reply ws 0 0 0x03#32)

/-- R95, R98: the quotient and remainder registers satisfy the division identity. -/
def Obligations.DivremRegistersSatisfyTheIdentity : Prop :=
  ∀ (ws : WSel) (pol : Policy) (W : Nat) (s : State), BinaryReady ws W s → valB s ≠ 0 →
    ∃ t, exec (.divrem ws pol) s = .next t ∧ valA s = t.rsp.res0.val.toNat * valB s + t.rsp.res1.val.toNat ∧
      t.rsp.res1.val.toNat < valB s

/-! ### Shifts and bitwise operators -/

/-- R100. -/
def Obligations.ShlFollowsItsRule : Prop :=
  ∀ (ws : WSel) (pol : Policy) (s : State),
    Encoded (.shl ws pol) (word 0x10 ws pol 0) ∧ OperandErrors (.shl ws pol) [s.latch.a] s ∧
    ∀ W, UnaryReady ws W s →
      CompletesWith (exec (.shl ws pol) s) s
        (reply ws (if W ≤ count s then 0 else valA s * 2 ^ count s % 2 ^ W) 0 0x00#32)

/-- R101. -/
def Obligations.ShrFollowsItsRule : Prop :=
  ∀ (ws : WSel) (pol : Policy) (s : State),
    Encoded (.shr ws pol) (word 0x11 ws pol 0) ∧ OperandErrors (.shr ws pol) [s.latch.a] s ∧
    ∀ W, UnaryReady ws W s →
      CompletesWith (exec (.shr ws pol) s) s (reply ws (if W ≤ count s then 0 else valA s / 2 ^ count s) 0 0x00#32)

/-- R103, by bits (R11). -/
def Obligations.AndFollowsItsRule : Prop :=
  ∀ (ws : WSel) (pol : Policy) (s : State),
    Encoded (.and ws pol) (word 0x20 ws pol 0) ∧ OperandErrors (.and ws pol) [s.latch.a, s.latch.b] s ∧
    ∀ W, BinaryReady ws W s →
      ∃ v, (∀ i, v.testBit i = ((valA s).testBit i && (valB s).testBit i)) ∧
        CompletesWith (exec (.and ws pol) s) s (reply ws v 0 0x00#32)

/-- R104, by bits (R11). -/
def Obligations.OrFollowsItsRule : Prop :=
  ∀ (ws : WSel) (pol : Policy) (s : State),
    Encoded (.or ws pol) (word 0x21 ws pol 0) ∧ OperandErrors (.or ws pol) [s.latch.a, s.latch.b] s ∧
    ∀ W, BinaryReady ws W s →
      ∃ v, (∀ i, v.testBit i = ((valA s).testBit i || (valB s).testBit i)) ∧
        CompletesWith (exec (.or ws pol) s) s (reply ws v 0 0x00#32)

/-- R105, by bits (R11). -/
def Obligations.XorFollowsItsRule : Prop :=
  ∀ (ws : WSel) (pol : Policy) (s : State),
    Encoded (.xor ws pol) (word 0x22 ws pol 0) ∧ OperandErrors (.xor ws pol) [s.latch.a, s.latch.b] s ∧
    ∀ W, BinaryReady ws W s →
      ∃ v, (∀ i, v.testBit i = ((valA s).testBit i ^^ (valB s).testBit i)) ∧
        CompletesWith (exec (.xor ws pol) s) s (reply ws v 0 0x00#32)

/-- R106: bit i of the result is the complement of bit i of A below W, and 0 at and above W. -/
def Obligations.NotFollowsItsRule : Prop :=
  ∀ (ws : WSel) (pol : Policy) (s : State),
    Encoded (.not ws pol) (word 0x23 ws pol 0) ∧ OperandErrors (.not ws pol) [s.latch.a] s ∧
    ∀ W, UnaryReady ws W s →
      (∀ i, (2 ^ W - 1 - valA s).testBit i = (decide (i < W) && !(valA s).testBit i)) ∧
        CompletesWith (exec (.not ws pol) s) s (reply ws (2 ^ W - 1 - valA s) 0 0x00#32)

/-! ### Comparator -/

/-- R75. -/
def Obligations.CmpFollowsItsRule : Prop :=
  ∀ (ws : WSel) (pol : Policy) (s : State), RelationalRule (.cmp ws pol) 0x30 (fun _ _ => false) s

/-- R76, R77. -/
def Obligations.EqualityCommandsFollowTheirRules : Prop :=
  ∀ (ws : WSel) (pol : Policy) (s : State),
    RelationalRule (.eq ws pol) 0x31 (fun a b => decide (a = b)) s ∧
    RelationalRule (.ne ws pol) 0x32 (fun a b => decide (a ≠ b)) s

/-- R78 to R81. -/
def Obligations.OrderCommandsFollowTheirRules : Prop :=
  ∀ (ws : WSel) (pol : Policy) (s : State),
    RelationalRule (.lt ws pol) 0x33 (fun a b => decide (a < b)) s ∧
    RelationalRule (.le ws pol) 0x34 (fun a b => decide (a ≤ b)) s ∧
    RelationalRule (.gt ws pol) 0x35 (fun a b => decide (b < a)) s ∧
    RelationalRule (.ge ws pol) 0x36 (fun a b => decide (b ≤ a)) s

/-- R74: the comparator agrees with the order of the big-endian byte encodings of A and B, as TOBYTES gives them. -/
def Obligations.CompareAgreesWithBigEndianBytes : Prop :=
  ∀ (ws : WSel) (pol : Policy) (W : Nat) (s : State), BinaryReady ws W s →
    ∃ t ta tb, exec (.cmp ws pol) s = .next t ∧ exec (.tobytes ws pol .big) s = .next ta ∧
      exec (.tobytes ws pol .big) { s with latch := { s.latch with a := s.latch.b } } = .next tb ∧
      t.rsp.status.extractLsb' 5 2 =
        match lexOrder ta.rsp.out.toList tb.rsp.out.toList with
        | .lt => 0b01#2
        | .eq => 0b10#2
        | .gt => 0b11#2

/-! ### Codec -/

/-- R108. -/
def Obligations.TobytesFollowsItsRule : Prop :=
  ∀ (ws : WSel) (pol : Policy) (en : Endian) (s : State),
    Encoded (.tobytes ws pol en) (word 0x40 ws pol (endianNum en)) ∧ OperandErrors (.tobytes ws pol en) [s.latch.a] s ∧
    ∀ W n, UnaryReady ws W s → n = (W + 7) / 8 →
      ∃ r, CompletesWith (exec (.tobytes ws pol en) s) s r ∧
        IsOutput ws n
          (fun i => BitVec.ofNat 8 (valA s / 2 ^ (8 * match en with | .big => n - 1 - i | .little => i) % 2 ^ 8)) r

/-- R109. -/
def Obligations.FrombytesFollowsItsRule : Prop :=
  ∀ (ws : WSel) (pol : Policy) (en : Endian) (s : State),
    Encoded (.frombytes ws pol en) (word 0x41 ws pol (endianNum en)) ∧ OperandErrors (.frombytes ws pol en) [] s ∧
    ∀ W n, widthOf ws = some W → n = (W + 7) / 8 →
      (inLen s ≠ n → CompletesWith (exec (.frombytes ws pol en) s) s (reply ws 0 0 0x05#32)) ∧
      (inLen s = n → CompletesWith (exec (.frombytes ws pol en) s) s
        (if 2 ^ W ≤ inNumber en n s then reply ws 0 0 0x08#32 else reply ws (inNumber en n s) 0 0x00#32))

/-- R110, R107 (the ASCII codes: log 8): two lowercase characters for each byte, most significant byte and high nibble first, so that OUT[i] is the hex
digit of weight 16^(2n-1-i). -/
def Obligations.TohexFollowsItsRule : Prop :=
  ∀ (ws : WSel) (pol : Policy) (s : State),
    Encoded (.tohex ws pol) (word 0x42 ws pol 0) ∧ OperandErrors (.tohex ws pol) [s.latch.a] s ∧
    ∀ W n, UnaryReady ws W s → n = (W + 7) / 8 →
      ∃ r, CompletesWith (exec (.tohex ws pol) s) s r ∧
        IsOutput ws (2 * n) (fun i => lowerHex (valA s / 16 ^ (2 * n - 1 - i) % 16)) r

/-- R111, R107 (the ASCII codes: log 8), its errors in their order and its value. -/
def Obligations.FromhexFollowsItsRule : Prop :=
  ∀ (ws : WSel) (pol : Policy) (s : State),
    Encoded (.fromhex ws pol) (word 0x43 ws pol 0) ∧ OperandErrors (.fromhex ws pol) [] s ∧
    ∀ W n, widthOf ws = some W → n = (W + 7) / 8 →
      (W % 8 = 0 ∧ inLen s % 2 = 1 → CompletesWith (exec (.fromhex ws pol) s) s (reply ws 0 0 0x06#32)) ∧
      (¬ (W % 8 = 0 ∧ inLen s % 2 = 1) ∧ inLen s ≠ 2 * n →
        CompletesWith (exec (.fromhex ws pol) s) s (reply ws 0 0 0x05#32)) ∧
      (inLen s = 2 * n ∧ (∃ i < 2 * n, ∀ d, ¬ IsHex (inAt s i) d) →
        CompletesWith (exec (.fromhex ws pol) s) s (reply ws 0 0 0x07#32)) ∧
      ∀ (digit : Nat → Nat) (v : Nat), inLen s = 2 * n → (∀ i < 2 * n, IsHex (inAt s i) (digit i)) →
        v = (Finset.sum (Finset.range (2 * n)) fun i => digit i * 16 ^ (2 * n - 1 - i)) →
        CompletesWith (exec (.fromhex ws pol) s) s
          (if 2 ^ W ≤ v then reply ws 0 0 0x08#32 else reply ws v 0 0x00#32)

/-- R112: FROMBYTES of the OUT bytes of TOBYTES gives the value back, at every width and in both byte orders. -/
def Obligations.BytesRoundTrip : Prop :=
  ∀ (ws : WSel) (pol pol' : Policy) (en : Endian) (W : Nat) (s : State), UnaryReady ws W s →
    ∃ t, exec (.tobytes ws pol en) s = .next t ∧
      ∀ s' : State, s'.latch.inBytes = t.rsp.out → s'.latch.inLen = t.rsp.outLen →
        CompletesWith (exec (.frombytes ws pol' en) s') s' (reply ws (valA s) 0 0x00#32)

/-- R112: FROMHEX of the OUT text of TOHEX gives the value back, at every width. -/
def Obligations.HexRoundTrip : Prop :=
  ∀ (ws : WSel) (pol pol' : Policy) (W : Nat) (s : State), UnaryReady ws W s →
    ∃ t, exec (.tohex ws pol) s = .next t ∧
      ∀ s' : State, s'.latch.inBytes = t.rsp.out → s'.latch.inLen = t.rsp.outLen →
        CompletesWith (exec (.fromhex ws pol') s') s' (reply ws (valA s) 0 0x00#32)

/-- R112 (the ASCII codes: PRESUMED, log 8): FROMHEX gives the same response for a text and for the text with its hex letters
'A' to 'F' in lower case. -/
def Obligations.HexDecodingIgnoresCase : Prop :=
  ∀ (ws : WSel) (pol : Policy) (s s' : State), s'.latch.inLen = s.latch.inLen →
    (∀ (i : Nat) (h : i < 256), s'.latch.inBytes[i] = toLower s.latch.inBytes[i]) →
    ∃ t t', exec (.fromhex ws pol) s = .next t ∧ exec (.fromhex ws pol) s' = .next t' ∧ t.rsp = t'.rsp

/-! ### The reference algorithms, for every limb size -/

/-- R85: ripple-carry addition on limbs gives the sum modulo 2^W and the condition a + b ≥ 2^W. -/
def Obligations.RippleCarryAgrees : Prop :=
  ∀ lb L W a b : Nat, Reference.Fits lb L W → a < 2 ^ W → b < 2 ^ W →
    Reference.add lb L W a b = ((a + b) % 2 ^ W, decide (2 ^ W ≤ a + b))

/-- R88: ripple-borrow subtraction on limbs gives the difference modulo 2^W and the condition a < b. -/
def Obligations.RippleBorrowAgrees : Prop :=
  ∀ lb L W a b : Nat, Reference.Fits lb L W → a < 2 ^ W → b < 2 ^ W →
    Reference.sub lb L W a b = ((a + 2 ^ W - b) % 2 ^ W, decide (a < b))

/-- R92: schoolbook multiplication in the double-width scratch buffer gives the exact product, hence MUL's value and
condition. -/
def Obligations.SchoolbookProductIsExact : Prop :=
  ∀ lb L W a b : Nat, Reference.Fits lb L W → a < 2 ^ W → b < 2 ^ W →
    Reference.product lb L a b = a * b ∧ Reference.mul lb L W a b = (a * b % 2 ^ W, decide (2 ^ W ≤ a * b))

/-- R95: binary long division gives the quotient and the remainder. -/
def Obligations.LongDivisionAgrees : Prop :=
  ∀ W a b : Nat, a < 2 ^ W → b ≠ 0 → Reference.longDiv W a b = (a / b, a % b)

/-- R73: the limb scan agrees with the comparison of natural numbers for every limb size. -/
def Obligations.LimbScanAgrees : Prop :=
  ∀ lb L W a b : Nat, Reference.Fits lb L W → a < 2 ^ W → b < 2 ^ W → Reference.compareLimbs lb L a b = compareNat a b

/-- R99: the barrel shifts on limbs equal multiplication by 2^k modulo 2^W and division by 2^k. -/
def Obligations.LimbShiftsAgree : Prop :=
  ∀ lb L W a k : Nat, Reference.Fits lb L W → a < 2 ^ W →
    Reference.shiftLeft lb L W a k = a * 2 ^ k % 2 ^ W ∧ Reference.shiftRight lb L W a k = a / 2 ^ k

/-- R102: the bitwise operators per limb, masked afterward, equal those on natural numbers. -/
def Obligations.LimbBitwiseAgrees : Prop :=
  ∀ lb L W a b : Nat, Reference.Fits lb L W → a < 2 ^ W → b < 2 ^ W →
    Reference.bitwise (· &&& ·) lb L W a b = a &&& b ∧ Reference.bitwise (· ||| ·) lb L W a b = a ||| b ∧
    Reference.bitwise (· ^^^ ·) lb L W a b = a ^^^ b ∧ Reference.complement lb L W a = 2 ^ W - 1 - a
end

