-- ==== Sys2Proof/Laws/Width.lean ====
section
/-! SUPPORT. The width codes and their widths, latency bounds, and the limb configuration. -/

namespace Sys2Proof

/-- The seven widths, by their codes. -/
theorem widthOf_cases {ws : WSel} {W : Nat} (h : widthOf ws = some W) :
    ws = 0 ∧ W = 5 ∨ ws = 1 ∧ W = 6 ∨ ws = 2 ∧ W = 7 ∨ ws = 3 ∧ W = 24 ∨ ws = 4 ∧ W = 256 ∨ ws = 5 ∧ W = 512 ∨
      ws = 6 ∧ W = 1024 := by
  have key : ∀ ws : WSel, widthOf ws =
      if ws = 0 then some 5 else if ws = 1 then some 6 else if ws = 2 then some 7 else if ws = 3 then some 24
      else if ws = 4 then some 256 else if ws = 5 then some 512 else if ws = 6 then some 1024 else none := by decide
  rw [key ws] at h
  split_ifs at h <;> simp_all

theorem widthOf_none_iff {ws : WSel} : widthOf ws = none ↔ ws = 7 := by revert ws; decide

theorem widthOf_pos {ws : WSel} {W : Nat} (h : widthOf ws = some W) : 0 < W := by
  rcases widthOf_cases h with h | h | h | h | h | h | h <;> omega

theorem widthOf_le {ws : WSel} {W : Nat} (h : widthOf ws = some W) : W ≤ 1024 := by
  rcases widthOf_cases h with h | h | h | h | h | h | h <;> omega

/-- A value of any width fits a value register. -/
theorem pow_widthOf_le {ws : WSel} {W : Nat} (h : widthOf ws = some W) : 2 ^ W ≤ 2 ^ 1024 :=
  Nat.pow_le_pow_right (by decide) (widthOf_le h)

theorem width_le_bytes (W : Nat) : W ≤ 8 * nbytes W := by unfold nbytes; omega

theorem nbytes_le {ws : WSel} {W : Nat} (h : widthOf ws = some W) : nbytes W ≤ 128 := by
  have := widthOf_le h; unfold nbytes; omega

/-- A value below 2^W survives a value register. -/
theorem toNat_ofNat_of_lt {ws : WSel} {W v : Nat} (h : widthOf ws = some W) (hv : v < 2 ^ W) :
    (BitVec.ofNat 1024 v).toNat = v := by
  rw [BitVec.toNat_ofNat]; exact Nat.mod_eq_of_lt (lt_of_lt_of_le hv (pow_widthOf_le h))

theorem Config.lat_pos (l : Ports) : 1 ≤ Config.lat l := by unfold Config.lat; omega

theorem Config.lat_le (l : Ports) : Config.lat l ≤ Config.latMax := by
  have h : 0 < Config.latMax := by unfold Config.latMax; omega
  have := Nat.mod_lt (Config.latRaw l) h
  unfold Config.lat; omega

/-- Every width of the set fits its limbs in this configuration. -/
theorem Machine.Reference.fits_config {ws : WSel} {W : Nat} (h : widthOf ws = some W) :
    Machine.Reference.Fits (Machine.Reference.limbSize W) (Machine.Reference.limbCount W) W := by
  have precise : ∀ W ∈ Config.preciseWidths, Machine.Reference.Fits Config.preciseBackingBits 1 W := by
    intro W hW
    have : W ≤ 24 := by simp [Config.preciseWidths] at hW; omega
    refine ⟨?_, Or.inr ⟨rfl, ?_⟩⟩ <;> unfold Config.preciseBackingBits <;> omega
  rcases widthOf_cases h with h | h | h | h | h | h | h <;> obtain ⟨-, rfl⟩ := h
  · exact precise 5 (by decide)
  · exact precise 6 (by decide)
  · exact precise 7 (by decide)
  · exact precise 24 (by decide)
  · exact ⟨by decide, .inl (by decide)⟩
  · exact ⟨by decide, .inl (by decide)⟩
  · exact ⟨by decide, .inl (by decide)⟩

end Sys2Proof
end

