-- ==== Sys2Proof/Laws/Codec.lean ====
section
/-! SUPPORT. Lengths and elements of the codec's lists and buffers. -/

namespace Sys2Proof.Machine

@[simp] theorem bytesLE_length (v n : Nat) : (bytesLE v n).length = n := by simp [bytesLE]

@[simp] theorem bytesOf_length (en : Endian) (v n : Nat) : (bytesOf en v n).length = n := by cases en <;> simp [bytesOf]

@[simp] theorem hexText_length (bs : List Byte) : (hexText bs).length = 2 * bs.length := by
  induction bs with
  | nil => rfl
  | cons b bs ih => simp only [hexText, List.length_cons, ih]; omega

@[simp] theorem bufferOf_getElem (bytes : List Byte) (i : Nat) (h : i < bufBytes) :
    (bufferOf bytes)[i] = bytes.getD i 0 := by simp [bufferOf]

/-- A buffer's leading bytes are the bytes it was built from. -/
theorem take_bufferOf (bytes : List Byte) (h : bytes.length ≤ bufBytes) :
    (bufferOf bytes).toList.take bytes.length = bytes := by
  apply List.ext_getElem
  · simp; omega
  · intro i h1 h2
    simp [h2]

@[simp] theorem byteOf_toNat (v j : Nat) : (byteOf v j).toNat = v / 2 ^ (8 * j) % 256 := by simp [byteOf]

theorem natOfBytesLE_append (xs ys : List Byte) :
    natOfBytesLE (xs ++ ys) = natOfBytesLE xs + 2 ^ (8 * xs.length) * natOfBytesLE ys := by
  induction xs with
  | nil => simp [natOfBytesLE]
  | cons x xs ih =>
    simp only [List.cons_append, natOfBytesLE, ih, List.length_cons, Nat.mul_add, Nat.mul_one, Nat.pow_add]
    ring

end Sys2Proof.Machine
end

