-- ==== Sys2Proof/Laws/State.lean ====
section
/-! SUPPORT. One lemma per field per update of the state and of a response, each true by definition. -/

namespace Sys2Proof.Machine

section Idle
variable (s : State)

@[simp] theorem State.idle_busy : s.idle.busy = false := rfl
@[simp] theorem State.idle_cyclesLeft : s.idle.cyclesLeft = 0 := rfl
@[simp] theorem State.idle_latch : s.idle.latch = Config.idleLatch s.draws := rfl
@[simp] theorem State.idle_draws : s.idle.draws = s.draws + 1 := rfl
@[simp] theorem State.idle_rspValid : s.idle.rspValid = s.rspValid := rfl
@[simp] theorem State.idle_rsp : s.idle.rsp = s.rsp := rfl
@[simp] theorem State.idle_pins : s.idle.pins = s.pins := rfl
@[simp] theorem State.idle_hostNext : s.idle.hostNext = s.hostNext := rfl

end Idle

section Respond
variable (s : State) (r : Response)

@[simp] theorem State.respond_rsp : (s.respond r).rsp = r := rfl
@[simp] theorem State.respond_rspValid : (s.respond r).rspValid = true := rfl
@[simp] theorem State.respond_busy : (s.respond r).busy = false := rfl
@[simp] theorem State.respond_cyclesLeft : (s.respond r).cyclesLeft = 0 := rfl
@[simp] theorem State.respond_latch : (s.respond r).latch = Config.idleLatch s.draws := rfl
@[simp] theorem State.respond_draws : (s.respond r).draws = s.draws + 1 := rfl
@[simp] theorem State.respond_pins : (s.respond r).pins = s.pins := rfl
@[simp] theorem State.respond_hostNext : (s.respond r).hostNext = s.hostNext := rfl

end Respond

section ResetEdge
variable (s : State)

@[simp] theorem State.resetEdge_busy : s.resetEdge.busy = false := rfl
@[simp] theorem State.resetEdge_rspValid : s.resetEdge.rspValid = false := rfl
@[simp] theorem State.resetEdge_rsp : s.resetEdge.rsp = Response.zero := rfl
@[simp] theorem State.resetEdge_cyclesLeft : s.resetEdge.cyclesLeft = 0 := rfl
@[simp] theorem State.resetEdge_latch : s.resetEdge.latch = Config.idleLatch s.draws := rfl
@[simp] theorem State.resetEdge_draws : s.resetEdge.draws = s.draws + 1 := rfl
@[simp] theorem State.resetEdge_pins : s.resetEdge.pins = s.pins := rfl
@[simp] theorem State.resetEdge_hostNext : s.resetEdge.hostNext = s.hostNext := rfl

end ResetEdge

section Accept
variable (s : State) (p : Ports)

@[simp] theorem State.accept_busy : (s.accept p).busy = true := rfl
@[simp] theorem State.accept_rspValid : (s.accept p).rspValid = false := rfl
@[simp] theorem State.accept_latch : (s.accept p).latch = p := rfl
@[simp] theorem State.accept_cyclesLeft : (s.accept p).cyclesLeft = Config.lat p := rfl
@[simp] theorem State.accept_rsp : (s.accept p).rsp = s.rsp := rfl
@[simp] theorem State.accept_pins : (s.accept p).pins = s.pins := rfl
@[simp] theorem State.accept_hostNext : (s.accept p).hostNext = s.hostNext := rfl
@[simp] theorem State.accept_draws : (s.accept p).draws = s.draws := rfl

end Accept

section Tick
variable (s : State)

@[simp] theorem State.tick_cyclesLeft : s.tick.cyclesLeft = s.cyclesLeft - 1 := rfl
@[simp] theorem State.tick_busy : s.tick.busy = s.busy := rfl
@[simp] theorem State.tick_rspValid : s.tick.rspValid = s.rspValid := rfl
@[simp] theorem State.tick_latch : s.tick.latch = s.latch := rfl
@[simp] theorem State.tick_rsp : s.tick.rsp = s.rsp := rfl
@[simp] theorem State.tick_pins : s.tick.pins = s.pins := rfl
@[simp] theorem State.tick_hostNext : s.tick.hostNext = s.hostNext := rfl
@[simp] theorem State.tick_draws : s.tick.draws = s.draws := rfl

end Tick

section NextPins
variable (s : State)

@[simp] theorem State.nextPins_busy : s.nextPins.busy = s.busy := by unfold State.nextPins; split <;> rfl
@[simp] theorem State.nextPins_rspValid : s.nextPins.rspValid = s.rspValid := by unfold State.nextPins; split <;> rfl
@[simp] theorem State.nextPins_latch : s.nextPins.latch = s.latch := by unfold State.nextPins; split <;> rfl
@[simp] theorem State.nextPins_rsp : s.nextPins.rsp = s.rsp := by unfold State.nextPins; split <;> rfl
@[simp] theorem State.nextPins_cyclesLeft : s.nextPins.cyclesLeft = s.cyclesLeft := by
  unfold State.nextPins; split <;> rfl
@[simp] theorem State.nextPins_draws : s.nextPins.draws = s.draws := by unfold State.nextPins; split <;> rfl

theorem State.nextPins_of_nil (h : s.hostNext = []) : s.nextPins = s := by unfold State.nextPins; rw [h]

theorem State.nextPins_of_cons {p : Pins} {ps : List Pins} (h : s.hostNext = p :: ps) :
    s.nextPins = { s with pins := p, hostNext := ps } := by unfold State.nextPins; rw [h]

end NextPins

section Responses
variable (ws : WSel) (e : ErrCode) (r : Response) (v : Nat) (ord : BitVec 2) (b : Bool) (bytes : List Byte)

@[simp] theorem Response.default_res0 : (Response.default ws).res0 = ⟨ws, 0⟩ := rfl
@[simp] theorem Response.default_res1 : (Response.default ws).res1 = ⟨ws, 0⟩ := rfl
@[simp] theorem Response.default_out : (Response.default ws).out = Vector.replicate bufBytes 0 := rfl
@[simp] theorem Response.default_outLen : (Response.default ws).outLen = 0 := rfl
@[simp] theorem Response.default_status : (Response.default ws).status = 0 := rfl

@[simp] theorem errorResponse_res0 : (errorResponse ws e).res0 = ⟨ws, 0⟩ := rfl
@[simp] theorem errorResponse_res1 : (errorResponse ws e).res1 = ⟨ws, 0⟩ := rfl
@[simp] theorem errorResponse_out : (errorResponse ws e).out = Vector.replicate bufBytes 0 := rfl
@[simp] theorem errorResponse_outLen : (errorResponse ws e).outLen = 0 := rfl
@[simp] theorem errorResponse_status : (errorResponse ws e).status = statusWord e.code e.setsOvf 0 false := rfl

@[simp] theorem Response.setRes0_res0 : (r.setRes0 v).res0 = ⟨r.res0.wsel, BitVec.ofNat 1024 v⟩ := rfl
@[simp] theorem Response.setRes0_res1 : (r.setRes0 v).res1 = r.res1 := rfl
@[simp] theorem Response.setRes0_out : (r.setRes0 v).out = r.out := rfl
@[simp] theorem Response.setRes0_outLen : (r.setRes0 v).outLen = r.outLen := rfl
@[simp] theorem Response.setRes0_status : (r.setRes0 v).status = r.status := rfl

@[simp] theorem Response.setRes1_res1 : (r.setRes1 v).res1 = ⟨r.res1.wsel, BitVec.ofNat 1024 v⟩ := rfl
@[simp] theorem Response.setRes1_res0 : (r.setRes1 v).res0 = r.res0 := rfl
@[simp] theorem Response.setRes1_out : (r.setRes1 v).out = r.out := rfl
@[simp] theorem Response.setRes1_outLen : (r.setRes1 v).outLen = r.outLen := rfl
@[simp] theorem Response.setRes1_status : (r.setRes1 v).status = r.status := rfl

@[simp] theorem Response.setOvf_status : (r.setOvf b).status = statusWord 0 b 0 false := rfl
@[simp] theorem Response.setOvf_res0 : (r.setOvf b).res0 = r.res0 := rfl
@[simp] theorem Response.setOvf_res1 : (r.setOvf b).res1 = r.res1 := rfl
@[simp] theorem Response.setOvf_out : (r.setOvf b).out = r.out := rfl
@[simp] theorem Response.setOvf_outLen : (r.setOvf b).outLen = r.outLen := rfl

@[simp] theorem Response.setOrdPred_status : (r.setOrdPred ord b).status = statusWord 0 false ord b := rfl
@[simp] theorem Response.setOrdPred_res0 : (r.setOrdPred ord b).res0 = r.res0 := rfl
@[simp] theorem Response.setOrdPred_res1 : (r.setOrdPred ord b).res1 = r.res1 := rfl
@[simp] theorem Response.setOrdPred_out : (r.setOrdPred ord b).out = r.out := rfl
@[simp] theorem Response.setOrdPred_outLen : (r.setOrdPred ord b).outLen = r.outLen := rfl

@[simp] theorem Response.setOut_out : (r.setOut bytes).out = bufferOf bytes := rfl
@[simp] theorem Response.setOut_outLen : (r.setOut bytes).outLen = BitVec.ofNat 9 bytes.length := rfl
@[simp] theorem Response.setOut_res0 : (r.setOut bytes).res0 = r.res0 := by dsimp only [Response.setOut]
@[simp] theorem Response.setOut_res1 : (r.setOut bytes).res1 = r.res1 := by dsimp only [Response.setOut]
@[simp] theorem Response.setOut_status : (r.setOut bytes).status = r.status := by dsimp only [Response.setOut]

end Responses

end Sys2Proof.Machine
end

