-- ==== Sys2Proof/Laws/Status.lean ====
section
/-! SUPPORT. The fields of a packed STATUS word, and the error codes. -/

namespace Sys2Proof.Machine

section Fields
variable (e : BitVec 4) (o : Bool) (d : BitVec 2) (p : Bool)

@[simp] theorem statusErr_statusWord : statusErr (statusWord e o d p) = e := by
  revert e o d p; decide +kernel

@[simp] theorem statusOvf_statusWord : statusOvf (statusWord e o d p) = o := by
  revert e o d p; decide +kernel

@[simp] theorem statusPred_statusWord : statusPred (statusWord e o d p) = p := by
  revert e o d p; decide +kernel

@[simp] theorem statusOrd_statusWord : statusOrd (statusWord e o d p) = d := by
  revert e o d p; decide +kernel

@[simp] theorem statusReserved_statusWord : statusReserved (statusWord e o d p) = 0#24 := by
  revert e o d p; decide +kernel

end Fields

theorem ErrCode.code_lt_reserved (e : ErrCode) : ¬ 11#4 ≤ e.code := by cases e <;> decide

theorem ErrCode.code_ne_zero (e : ErrCode) : e.code ≠ 0#4 := by cases e <;> decide

theorem ErrCode.code_le_ten (e : ErrCode) : e.code.toNat ≤ 10 := by cases e <;> decide

theorem ErrCode.code_injective {e f : ErrCode} (h : e.code = f.code) : e = f := by
  cases e <;> cases f <;> first | rfl | exact absurd h (by decide)

theorem ErrCode.setsOvf_iff (e : ErrCode) :
    e.setsOvf = true ↔ e.code = ErrCode.overflow.code ∨ e.code = ErrCode.underflow.code := by
  cases e <;> decide

@[simp] theorem statusWord_zero : statusWord 0 false 0 false = 0#32 := by decide

theorem ordCode_ne_zero (r : Ordering) : ordCode r ≠ 0#2 := by cases r <;> decide

end Sys2Proof.Machine
end

