-- ==== Sys2Proof/Laws/Ops.lean ====
section
/-! SUPPORT. What completing, raising and the operand checks can do, said once. -/

namespace Sys2Proof.Machine

/-- The state a completing edge leaves (R34). -/
theorem State.complete_of_known {s : State} {r : Response} (h : ¬ 11#4 ≤ statusErr r.status) :
    s.complete r = .next (s.respond r) := by
  unfold State.complete; rw [if_neg h]

theorem State.complete_cases {s t : State} {r : Response} (h : s.complete r = .next t) :
    ¬ 11#4 ≤ statusErr r.status ∧ t = s.respond r := by
  unfold State.complete at h
  split at h
  · cases h
  · next hk => cases h; exact ⟨hk, rfl⟩

/-- An error response always completes. -/
theorem State.complete_error (s : State) (ws : WSel) (e : ErrCode) :
    s.complete (errorResponse ws e) = .next (s.respond (errorResponse ws e)) :=
  State.complete_of_known (by simpa using e.code_lt_reserved)

theorem State.finish_error (s : State) (ws : WSel) (e : ErrCode) :
    s.finish ws (.error e) = .next (s.respond (errorResponse ws e)) :=
  State.complete_error s ws e

theorem State.finish_ok {s : State} {ws : WSel} {r : Response} (h : ¬ 11#4 ≤ statusErr r.status) :
    s.finish ws (.ok r) = .next (s.respond r) :=
  State.complete_of_known h

theorem checked_of_reserved {ws : WSel} {ops : List Tagged} {rule : Nat → Except ErrCode Response}
    (h : widthOf ws = none) : checked ws ops rule = .error .illegalCommand := by
  unfold checked; rw [h]

theorem checked_of_mismatch {ws : WSel} {W : Nat} {ops : List Tagged} {rule : Nat → Except ErrCode Response}
    (h : widthOf ws = some W) (hm : ∃ x ∈ ops, x.wsel ≠ ws) : checked ws ops rule = .error .widthMismatch := by
  have : ops.any (fun x => x.wsel != ws) = true := by simpa using hm
  unfold checked; rw [h]; simp [this]

theorem checked_of_invalid {ws : WSel} {W : Nat} {ops : List Tagged} {rule : Nat → Except ErrCode Response}
    (h : widthOf ws = some W) (ht : ∀ x ∈ ops, x.wsel = ws) (hv : ∃ x ∈ ops, 2 ^ W ≤ x.nat) :
    checked ws ops rule = .error .invalidOperand := by
  have h1 : ops.any (fun x => x.wsel != ws) = false := by simpa using ht
  have h2 : ops.any (fun x => decide (2 ^ W ≤ x.nat)) = true := by simpa using hv
  unfold checked; rw [h]; simp only [h1, h2]; simp

theorem checked_of_valid {ws : WSel} {W : Nat} {ops : List Tagged} {rule : Nat → Except ErrCode Response}
    (h : widthOf ws = some W) (ht : ∀ x ∈ ops, x.wsel = ws ∧ x.nat < 2 ^ W) : checked ws ops rule = rule W := by
  have h1 : ops.any (fun x => x.wsel != ws) = false := by simpa using fun x hx => (ht x hx).1
  have h2 : ops.any (fun x => decide (2 ^ W ≤ x.nat)) = false := by simpa using fun x hx => (ht x hx).2
  unfold checked; rw [h]; simp only [h1, h2]; simp

/-- All that the operand checks can end in. -/
theorem checked_cases (ws : WSel) (ops : List Tagged) (rule : Nat → Except ErrCode Response) :
    (widthOf ws = none ∧ checked ws ops rule = .error .illegalCommand) ∨
    ∃ W, widthOf ws = some W ∧
      ((∃ x ∈ ops, x.wsel ≠ ws) ∧ checked ws ops rule = .error .widthMismatch ∨
       (∀ x ∈ ops, x.wsel = ws) ∧ (∃ x ∈ ops, 2 ^ W ≤ x.nat) ∧ checked ws ops rule = .error .invalidOperand ∨
       (∀ x ∈ ops, x.wsel = ws ∧ x.nat < 2 ^ W) ∧ checked ws ops rule = rule W) := by
  cases hW : widthOf ws with
  | none => exact .inl ⟨rfl, checked_of_reserved hW⟩
  | some W =>
    refine .inr ⟨W, rfl, ?_⟩
    by_cases hm : ∃ x ∈ ops, x.wsel ≠ ws
    · exact .inl ⟨hm, checked_of_mismatch hW hm⟩
    · have ht : ∀ x ∈ ops, x.wsel = ws := by simpa using hm
      by_cases hv : ∃ x ∈ ops, 2 ^ W ≤ x.nat
      · exact .inr (.inl ⟨ht, hv, checked_of_invalid hW ht hv⟩)
      · have hlt : ∀ x ∈ ops, x.wsel = ws ∧ x.nat < 2 ^ W := fun x hx => ⟨ht x hx, by
          by_contra hc; exact hv ⟨x, hx, by omega⟩⟩
        exact .inr (.inr ⟨hlt, checked_of_valid hW hlt⟩)

end Sys2Proof.Machine
end

