-- ==== Sys2Proof/Laws/Exec.lean ====
section
/-! SUPPORT. exec by its arms, and the four operand classes once their operands pass the checks. -/

namespace Sys2Proof.Machine

section Arms
variable (ws : WSel) (pol : Policy) (en : Endian) (s : State)

@[simp] theorem exec_add : exec (.add ws pol) s = execAdd ws pol s := rfl
@[simp] theorem exec_sub : exec (.sub ws pol) s = execSub ws pol s := rfl
@[simp] theorem exec_mul : exec (.mul ws pol) s = execMul ws pol s := rfl
@[simp] theorem exec_div : exec (.div ws pol) s = execDiv ws pol s := rfl
@[simp] theorem exec_rem : exec (.rem ws pol) s = execRem ws pol s := rfl
@[simp] theorem exec_divrem : exec (.divrem ws pol) s = execDivrem ws pol s := rfl
@[simp] theorem exec_inc : exec (.inc ws pol) s = execInc ws pol s := rfl
@[simp] theorem exec_shl : exec (.shl ws pol) s = execShl ws pol s := rfl
@[simp] theorem exec_shr : exec (.shr ws pol) s = execShr ws pol s := rfl
@[simp] theorem exec_and : exec (.and ws pol) s = execAnd ws pol s := rfl
@[simp] theorem exec_or : exec (.or ws pol) s = execOr ws pol s := rfl
@[simp] theorem exec_xor : exec (.xor ws pol) s = execXor ws pol s := rfl
@[simp] theorem exec_not : exec (.not ws pol) s = execNot ws pol s := rfl
@[simp] theorem exec_cmp : exec (.cmp ws pol) s = execCmp ws pol s := rfl
@[simp] theorem exec_eq : exec (.eq ws pol) s = execEq ws pol s := rfl
@[simp] theorem exec_ne : exec (.ne ws pol) s = execNe ws pol s := rfl
@[simp] theorem exec_lt : exec (.lt ws pol) s = execLt ws pol s := rfl
@[simp] theorem exec_le : exec (.le ws pol) s = execLe ws pol s := rfl
@[simp] theorem exec_gt : exec (.gt ws pol) s = execGt ws pol s := rfl
@[simp] theorem exec_ge : exec (.ge ws pol) s = execGe ws pol s := rfl
@[simp] theorem exec_tobytes : exec (.tobytes ws pol en) s = execTobytes ws pol en s := rfl
@[simp] theorem exec_frombytes : exec (.frombytes ws pol en) s = execFrombytes ws pol en s := rfl
@[simp] theorem exec_tohex : exec (.tohex ws pol) s = execTohex ws pol s := rfl
@[simp] theorem exec_fromhex : exec (.fromhex ws pol) s = execFromhex ws pol s := rfl

end Arms

/-- The operands a command checks and reads, by its class (R61). -/
def operandsRead (i : Instr) (s : State) : List Tagged :=
  match i.operandClass with
  | .binary => [s.latch.a, s.latch.b]
  | .unary => [s.latch.a]
  | .none => []

/-- A binary command's rule on a sample of the ports. -/
def onBinary (rule : Nat → Nat → Nat → Except ErrCode Response) (L : Ports) (W : Nat) : Except ErrCode Response :=
  rule W L.a.nat L.b.nat

/-- A unary command's rule on a sample of the ports. -/
def onUnary (rule : Nat → Nat → Except ErrCode Response) (L : Ports) (W : Nat) : Except ErrCode Response := rule W L.a.nat

/-- A shift's rule on a sample of the ports. -/
def onUnaryCount (rule : Nat → Nat → Nat → Except ErrCode Response) (L : Ports) (W : Nat) : Except ErrCode Response :=
  rule W L.a.nat L.k.toNat

/-- A decoder's rule on a sample of the ports. -/
def onBytesIn (rule : Nat → Nat → List Byte → Except ErrCode Response) (L : Ports) (W : Nat) : Except ErrCode Response :=
  rule W L.inLen.toNat L.inBytes.toList

section Rules
variable (ws : WSel) (s : State)

theorem binary_finish (rule : Nat → Nat → Nat → Except ErrCode Response) :
    binary ws s rule = s.finish ws (checked ws [s.latch.a, s.latch.b] (onBinary rule s.latch)) := rfl

theorem unary_finish (rule : Nat → Nat → Except ErrCode Response) :
    unary ws s rule = s.finish ws (checked ws [s.latch.a] (onUnary rule s.latch)) := rfl

theorem unaryCount_finish (rule : Nat → Nat → Nat → Except ErrCode Response) :
    unaryCount ws s rule = s.finish ws (checked ws [s.latch.a] (onUnaryCount rule s.latch)) := rfl

theorem bytesIn_finish (rule : Nat → Nat → List Byte → Except ErrCode Response) :
    bytesIn ws s rule = s.finish ws (checked ws [] (onBytesIn rule s.latch)) := rfl

theorem relational_finish (pred : Ordering → Bool) :
    relational ws s pred = s.finish ws (checked ws [s.latch.a, s.latch.b] (onBinary (fun _ a b =>
      .ok ((Response.default ws).setOrdPred (ordCode (compareNat a b)) (pred (compareNat a b)))) s.latch)) := rfl

end Rules

/-- Every command checks the operands of its class and then finishes with its rule, a function of LATCH (R36, R66). -/
theorem exec_finish (i : Instr) : ∃ rule : Ports → Nat → Except ErrCode Response, ∀ s : State,
    exec i s = s.finish i.wsel (checked i.wsel (operandsRead i s) (rule s.latch)) := by
  cases i with
  | add ws pol => exact ⟨onBinary _, fun s => show execAdd ws pol s = _ from binary_finish ws s _⟩
  | sub ws pol => exact ⟨onBinary _, fun s => show execSub ws pol s = _ from binary_finish ws s _⟩
  | mul ws pol => exact ⟨onBinary _, fun s => show execMul ws pol s = _ from binary_finish ws s _⟩
  | div ws pol => exact ⟨onBinary _, fun s => show execDiv ws pol s = _ from binary_finish ws s _⟩
  | rem ws pol => exact ⟨onBinary _, fun s => show execRem ws pol s = _ from binary_finish ws s _⟩
  | divrem ws pol => exact ⟨onBinary _, fun s => show execDivrem ws pol s = _ from binary_finish ws s _⟩
  | inc ws pol => exact ⟨onUnary _, fun s => show execInc ws pol s = _ from unary_finish ws s _⟩
  | shl ws pol => exact ⟨onUnaryCount _, fun s => show execShl ws pol s = _ from unaryCount_finish ws s _⟩
  | shr ws pol => exact ⟨onUnaryCount _, fun s => show execShr ws pol s = _ from unaryCount_finish ws s _⟩
  | and ws pol => exact ⟨onBinary _, fun s => show execAnd ws pol s = _ from binary_finish ws s _⟩
  | or ws pol => exact ⟨onBinary _, fun s => show execOr ws pol s = _ from binary_finish ws s _⟩
  | xor ws pol => exact ⟨onBinary _, fun s => show execXor ws pol s = _ from binary_finish ws s _⟩
  | not ws pol => exact ⟨onUnary _, fun s => show execNot ws pol s = _ from unary_finish ws s _⟩
  | cmp ws pol => exact ⟨onBinary _, fun s => show execCmp ws pol s = _ from relational_finish ws s _⟩
  | eq ws pol => exact ⟨onBinary _, fun s => show execEq ws pol s = _ from relational_finish ws s _⟩
  | ne ws pol => exact ⟨onBinary _, fun s => show execNe ws pol s = _ from relational_finish ws s _⟩
  | lt ws pol => exact ⟨onBinary _, fun s => show execLt ws pol s = _ from relational_finish ws s _⟩
  | le ws pol => exact ⟨onBinary _, fun s => show execLe ws pol s = _ from relational_finish ws s _⟩
  | gt ws pol => exact ⟨onBinary _, fun s => show execGt ws pol s = _ from relational_finish ws s _⟩
  | ge ws pol => exact ⟨onBinary _, fun s => show execGe ws pol s = _ from relational_finish ws s _⟩
  | tobytes ws pol en => exact ⟨onUnary _, fun s => show execTobytes ws pol en s = _ from unary_finish ws s _⟩
  | frombytes ws pol en => exact ⟨onBytesIn _, fun s => show execFrombytes ws pol en s = _ from bytesIn_finish ws s _⟩
  | tohex ws pol => exact ⟨onUnary _, fun s => show execTohex ws pol s = _ from unary_finish ws s _⟩
  | fromhex ws pol => exact ⟨onBytesIn _, fun s => show execFromhex ws pol s = _ from bytesIn_finish ws s _⟩

section Classes
variable {ws : WSel} {W : Nat} {s : State}

theorem binary_of_valid {rule : Nat → Nat → Nat → Except ErrCode Response} (h : widthOf ws = some W)
    (ha : s.latch.a.wsel = ws ∧ s.latch.a.nat < 2 ^ W) (hb : s.latch.b.wsel = ws ∧ s.latch.b.nat < 2 ^ W) :
    binary ws s rule = s.finish ws (rule W s.latch.a.nat s.latch.b.nat) := by
  unfold binary; rw [checked_of_valid h (by simpa using ⟨ha, hb⟩)]

theorem unary_of_valid {rule : Nat → Nat → Except ErrCode Response} (h : widthOf ws = some W)
    (ha : s.latch.a.wsel = ws ∧ s.latch.a.nat < 2 ^ W) : unary ws s rule = s.finish ws (rule W s.latch.a.nat) := by
  unfold unary; rw [checked_of_valid h (by simpa using ha)]

theorem unaryCount_of_valid {rule : Nat → Nat → Nat → Except ErrCode Response} (h : widthOf ws = some W)
    (ha : s.latch.a.wsel = ws ∧ s.latch.a.nat < 2 ^ W) :
    unaryCount ws s rule = s.finish ws (rule W s.latch.a.nat s.latch.k.toNat) := by
  unfold unaryCount; rw [checked_of_valid h (by simpa using ha)]

theorem bytesIn_of_width {rule : Nat → Nat → List Byte → Except ErrCode Response} (h : widthOf ws = some W) :
    bytesIn ws s rule = s.finish ws (rule W s.latch.inLen.toNat s.latch.inBytes.toList) := by
  unfold bytesIn; rw [checked_of_valid h (by simp)]

end Classes

end Sys2Proof.Machine
end

