-- ==== Sys2Proof/Laws/PerInstr.lean ====
section
/-! SUPPORT. For each command: the fields of its command word are the command's own (R55, R59). -/

namespace Sys2Proof.Laws.EncodedFields

/-- Every field of the encoded word is the command's, and RSVD is 0. -/
def Statement (i : Instr) : Prop :=
  opcodeField (encode i) = i.opcode ∧ wselField (encode i) = i.wsel ∧ policyField (encode i) = i.policy.code ∧
    endianField (encode i) = i.endian.code ∧ rsvdField (encode i) = 0#18

/-- The fields of a word put together from its fields. -/
theorem fields_of_append (en : BitVec 1) (pol : BitVec 2) (ws : BitVec 3) (op : BitVec 8) :
    opcodeField (0#18 ++ en ++ pol ++ ws ++ op) = op ∧ wselField (0#18 ++ en ++ pol ++ ws ++ op) = ws ∧
      policyField (0#18 ++ en ++ pol ++ ws ++ op) = pol ∧ endianField (0#18 ++ en ++ pol ++ ws ++ op) = en ∧
      rsvdField (0#18 ++ en ++ pol ++ ws ++ op) = 0#18 := by
  have h1 := en.isLt
  have h2 := pol.isLt
  have h3 := ws.isLt
  have h4 := op.isLt
  have hw : (0#18 ++ en ++ pol ++ ws ++ op).toNat = en.toNat * 2 ^ 13 + pol.toNat * 2 ^ 11 + ws.toNat * 2 ^ 8 + op.toNat := by
    simp only [BitVec.toNat_append, BitVec.toNat_ofNat, Nat.shiftLeft_eq]
    rw [← Nat.shiftLeft_eq, ← Nat.shiftLeft_eq, ← Nat.shiftLeft_eq, ← Nat.shiftLeft_eq]
    rw [← Nat.shiftLeft_add_eq_or_of_lt h1, ← Nat.shiftLeft_add_eq_or_of_lt h2, ← Nat.shiftLeft_add_eq_or_of_lt h3,
      ← Nat.shiftLeft_add_eq_or_of_lt h4]
    simp only [Nat.shiftLeft_eq]
    omega
  refine ⟨?_, ?_, ?_, ?_, ?_⟩ <;> apply BitVec.eq_of_toNat_eq <;>
    simp only [opcodeField, wselField, policyField, endianField, rsvdField, BitVec.extractLsb'_toNat, hw,
      Nat.shiftRight_eq_div_pow, BitVec.toNat_ofNat] <;> omega

theorem statement_all (i : Instr) : Statement i := fields_of_append i.endian.code i.policy.code i.wsel i.opcode

theorem add (ws : WSel) (pol : Policy) : Statement (.add ws pol) := statement_all _
theorem sub (ws : WSel) (pol : Policy) : Statement (.sub ws pol) := statement_all _
theorem mul (ws : WSel) (pol : Policy) : Statement (.mul ws pol) := statement_all _
theorem div (ws : WSel) (pol : Policy) : Statement (.div ws pol) := statement_all _
theorem rem (ws : WSel) (pol : Policy) : Statement (.rem ws pol) := statement_all _
theorem divrem (ws : WSel) (pol : Policy) : Statement (.divrem ws pol) := statement_all _
theorem inc (ws : WSel) (pol : Policy) : Statement (.inc ws pol) := statement_all _
theorem shl (ws : WSel) (pol : Policy) : Statement (.shl ws pol) := statement_all _
theorem shr (ws : WSel) (pol : Policy) : Statement (.shr ws pol) := statement_all _
theorem and (ws : WSel) (pol : Policy) : Statement (.and ws pol) := statement_all _
theorem or (ws : WSel) (pol : Policy) : Statement (.or ws pol) := statement_all _
theorem xor (ws : WSel) (pol : Policy) : Statement (.xor ws pol) := statement_all _
theorem not (ws : WSel) (pol : Policy) : Statement (.not ws pol) := statement_all _
theorem cmp (ws : WSel) (pol : Policy) : Statement (.cmp ws pol) := statement_all _
theorem eq (ws : WSel) (pol : Policy) : Statement (.eq ws pol) := statement_all _
theorem ne (ws : WSel) (pol : Policy) : Statement (.ne ws pol) := statement_all _
theorem lt (ws : WSel) (pol : Policy) : Statement (.lt ws pol) := statement_all _
theorem le (ws : WSel) (pol : Policy) : Statement (.le ws pol) := statement_all _
theorem gt (ws : WSel) (pol : Policy) : Statement (.gt ws pol) := statement_all _
theorem ge (ws : WSel) (pol : Policy) : Statement (.ge ws pol) := statement_all _
theorem tobytes (ws : WSel) (pol : Policy) (en : Endian) : Statement (.tobytes ws pol en) := statement_all _
theorem frombytes (ws : WSel) (pol : Policy) (en : Endian) : Statement (.frombytes ws pol en) := statement_all _
theorem tohex (ws : WSel) (pol : Policy) : Statement (.tohex ws pol) := statement_all _
theorem fromhex (ws : WSel) (pol : Policy) : Statement (.fromhex ws pol) := statement_all _

end Sys2Proof.Laws.EncodedFields
end

