-- ==== Sys2Proof/Laws/Step.lean ====
section
/-! SUPPORT. What one rising edge can do, said once. -/

namespace Sys2Proof.Machine

/-- All that a step can be: a reset edge, the completing edge, an edge in flight, an acceptance, or an edge at rest. -/
theorem step_cases (s : State) :
    s.pins.rst = true ∧ step s = .next s.nextPins.resetEdge ∨
    s.pins.rst = false ∧ s.busy = true ∧ s.cyclesLeft ≤ 1 ∧ step s = runLatched s.nextPins ∨
    s.pins.rst = false ∧ s.busy = true ∧ 1 < s.cyclesLeft ∧ step s = .next s.nextPins.tick ∨
    s.pins.rst = false ∧ s.busy = false ∧ s.pins.cmdValid = true ∧ step s = .next (s.nextPins.accept s.pins.ports) ∨
    s.pins.rst = false ∧ s.busy = false ∧ s.pins.cmdValid = false ∧ step s = .next s.nextPins := by
  unfold step edge
  cases hr : s.pins.rst <;> cases hb : s.busy <;> cases hv : s.pins.cmdValid <;> by_cases hc : s.cyclesLeft ≤ 1 <;>
    simp [hb, hc] <;> omega

theorem runLatched_of_decode {s : State} {i : Instr} (h : decode s.latch.cmd = .ok i) : runLatched s = exec i s := by
  unfold runLatched; rw [h]

theorem runLatched_of_illegal {s : State} {e : DecodeError} (h : decode s.latch.cmd = .error e) :
    runLatched s = s.complete (errorResponse (wselField s.latch.cmd) .illegalCommand) := by
  unfold runLatched; rw [h]

end Sys2Proof.Machine
end

