-- ==== Sys2Proof/Laws/Run.lean ====
section
/-! SUPPORT. Runs, edge by edge. -/

namespace Sys2Proof.Machine

@[simp] theorem runEdges_zero (s : State) : runEdges 0 s = .next s := rfl

/-- A run begins with a step. -/
theorem runEdges_succ_of_next {s t : State} (n : Nat) (h : step s = .next t) : runEdges (n + 1) s = runEdges n t := by
  rw [runEdges, h]

/-- A run that has not stopped goes on with a step. -/
theorem runEdges_succ_last {s m : State} {n : Nat} (h : runEdges n s = .next m) : runEdges (n + 1) s = step m := by
  induction n generalizing s with
  | zero =>
    cases h
    rw [runEdges]
    cases step m <;> rfl
  | succ n ih =>
    cases hs : step s with
    | next t => rw [runEdges_succ_of_next n hs] at h; rw [runEdges_succ_of_next (n + 1) hs]; exact ih h
    | fault r => rw [runEdges, hs] at h; cases h
    | refused r => rw [runEdges, hs] at h; cases h

end Sys2Proof.Machine
end

