-- ==== Sys2Proof/Tests/Slice0.lean ====
section
/-! SUPPORT. Tests, their expected results from the spec's own examples and vectors (95_test_vectors.md and the command
rules), and a witness for the hypotheses of every statement that has some. -/

namespace Sys2Proof.Tests

-- Many small theorems elaborated at once would each hold a thread.
set_option Elab.async false

open Sys2Proof.Machine Sys2Proof.Claims

/-! ### Well-formedness and decoding -/

/-- R56: code 7 names no width. -/
theorem test_wf_refuses_reserved_width : (Instr.add 7 .checked).wf = false := by decide

theorem test_wf_admits_widest : (Instr.fromhex 6 .saturating).wf = true := by decide

/-- 30 R68. -/
theorem test_decode_add : decode 0x00000C01#32 = .ok (.add 4 .wrapping) := by decide

/-- 95 V2 row 17. -/
theorem test_decode_sub : decode 0x00001002#32 = .ok (.sub 0 .saturating) := by decide

/-- 30 R68. -/
theorem test_decode_mul : decode 0x00000403#32 = .ok (.mul 4 .checked) := by decide

/-- 42 R96. -/
theorem test_decode_div : decode 0x00000304#32 = .ok (.div 3 .checked) := by decide

/-- 42 R97. -/
theorem test_decode_rem : decode 0x00000305#32 = .ok (.rem 3 .checked) := by decide

/-- 42 R98. -/
theorem test_decode_divrem : decode 0x00000406#32 = .ok (.divrem 4 .checked) := by decide

/-- 41 R90. -/
theorem test_decode_inc : decode 0x00000807#32 = .ok (.inc 0 .wrapping) := by decide

/-- 95 V4 row 10. -/
theorem test_decode_shl : decode 0x00001310#32 = .ok (.shl 3 .saturating) := by decide

/-- 95 V4 row 14. -/
theorem test_decode_shr : decode 0x00000611#32 = .ok (.shr 6 .checked) := by decide

/-- 43 R103. -/
theorem test_decode_and : decode 0x00000320#32 = .ok (.and 3 .checked) := by decide

/-- 43 R104. -/
theorem test_decode_or : decode 0x00000221#32 = .ok (.or 2 .checked) := by decide

/-- 43 R105. -/
theorem test_decode_xor : decode 0x00000522#32 = .ok (.xor 5 .checked) := by decide

/-- 95 V4 row 24. -/
theorem test_decode_not : decode 0x00000123#32 = .ok (.not 1 .checked) := by decide

/-- 95 V1 row 7. -/
theorem test_decode_cmp : decode 0x00001630#32 = .ok (.cmp 6 .saturating) := by decide

/-- 40 R76. -/
theorem test_decode_eq : decode 0x00000031#32 = .ok (.eq 0 .checked) := by decide

/-- 40 R77. -/
theorem test_decode_ne : decode 0x00000332#32 = .ok (.ne 3 .checked) := by decide

/-- 40 R78. -/
theorem test_decode_lt : decode 0x00000533#32 = .ok (.lt 5 .checked) := by decide

/-- 40 R79. -/
theorem test_decode_le : decode 0x00000134#32 = .ok (.le 1 .checked) := by decide

/-- 40 R80. -/
theorem test_decode_gt : decode 0x00000635#32 = .ok (.gt 6 .checked) := by decide

/-- 40 R81. -/
theorem test_decode_ge : decode 0x00000236#32 = .ok (.ge 2 .checked) := by decide

/-- 44 R108. -/
theorem test_decode_tobytes : decode 0x00002340#32 = .ok (.tobytes 3 .checked .little) := by decide

/-- 30 R68. -/
theorem test_decode_frombytes : decode 0x00002341#32 = .ok (.frombytes 3 .checked .little) := by decide

/-- 44 R110. -/
theorem test_decode_tohex : decode 0x00000342#32 = .ok (.tohex 3 .checked) := by decide

/-- 44 R111. -/
theorem test_decode_fromhex : decode 0x00000343#32 = .ok (.fromhex 3 .checked) := by decide

/-- 95 V6 row 3. -/
theorem test_decode_rejects_unknown_opcode : decode 0x000000FF#32 = .error .unknownOpcode := by decide

/-- 95 V6 row 4. -/
theorem test_decode_rejects_reserved_width : decode 0x00000701#32 = .error .reservedWidth := by decide

/-- 95 V6 row 5. -/
theorem test_decode_rejects_reserved_policy : decode 0x00001801#32 = .error .reservedPolicy := by decide

/-- 95 V6 row 6. -/
theorem test_decode_rejects_reserved_bit_14 : decode 0x00004001#32 = .error .reservedBits := by decide

/-- 95 V6 row 7. -/
theorem test_decode_rejects_reserved_bit_31 : decode 0x80000001#32 = .error .reservedBits := by decide

/-- 95 V6 row 8. -/
theorem test_decode_rejects_endian_on_add : decode 0x00002001#32 = .error .endianNotAllowed := by decide

/-- 95 V5 row 23. -/
theorem test_decode_rejects_endian_on_tohex : decode 0x00002342#32 = .error .endianNotAllowed := by decide

/-- The table's number for the ADD row. -/
theorem test_decodeTableWord : decodeTableWord 32 0x00000001 = some (.add 0 .checked) := by decide

/-! ### One completing edge -/

/-- A command in flight, due at the coming edge: command word, operands as (tag, value), count and input bytes. -/
def inFlight (cmd : CmdWord) (a b : Nat × Nat) (k : Nat) (inp : List Byte) : State :=
  { State.reset with
    busy := true
    cyclesLeft := 1
    latch := ⟨cmd, ⟨BitVec.ofNat 3 a.1, BitVec.ofNat 1024 a.2⟩, ⟨BitVec.ofNat 3 b.1, BitVec.ofNat 1024 b.2⟩,
      BitVec.ofNat 32 k, BitVec.ofNat 9 inp.length, bufferOf inp⟩ }

/-- What one edge leaves in RES0, RES1, STATUS and the OUT_LEN leading bytes of OUT. -/
def after (cmd : CmdWord) (a b : Nat × Nat) (k : Nat) (inp : List Byte) : Option (Nat × Nat × Nat × List Byte) :=
  match step (inFlight cmd a b k inp) with
  | .next t => some (t.rsp.res0.nat, t.rsp.res1.nat, t.rsp.status.toNat, t.rsp.out.toList.take t.rsp.outLen.toNat)
  | .fault _ => none
  | .refused _ => none

/-- 95 V2 row 2. -/
theorem test_add_checked_overflow : after 0x00000001 (0, 31) (0, 1) 0 [] = some (0, 0, 0x11, []) := by decide +kernel

/-- 95 V2 row 5. -/
theorem test_add_wraps_max : after 0x00000B01 (3, 0xffffff) (3, 0xffffff) 0 [] = some (0xfffffe, 0, 0x10, []) := by decide +kernel

/-- 95 V2 row 16. -/
theorem test_sub_wraps : after 0x00000802 (0, 0) (0, 1) 0 [] = some (31, 0, 0x10, []) := by decide +kernel

/-- 95 V2 row 19. -/
theorem test_sub_borrows_across_limbs : after 0x00000602 (6, (2 ^ 512)) (6, 1) 0 [] = some (2 ^ 512 - 1, 0, 0x00, []) := by decide +kernel

/-- 95 V2 row 24. -/
theorem test_inc_saturates : after 0x00001007 (0, 31) (0, 0) 0 [] = some (31, 0, 0x10, []) := by decide +kernel

/-- 95 V2 row 26. -/
theorem test_inc_carries : after 0x00000407 (4, (2 ^ 128 - 1)) (0, 0) 0 [] = some (2 ^ 128, 0, 0x00, []) := by decide +kernel

/-- 95 V3 row 1. -/
theorem test_mul_source_example : after 0x00000403 (4, 2) (4, (2 ^ 255)) 0 [] = some (0, 0, 0x11, []) := by decide +kernel

/-- 95 V3 row 10. -/
theorem test_mul_wraps_square_of_max : after 0x00000E03 (6, (2 ^ 1024 - 1)) (6, (2 ^ 1024 - 1)) 0 [] = some (1, 0, 0x10, []) := by decide +kernel

/-- 95 V3 row 14. -/
theorem test_div : after 0x00000304 (3, 0xf4240) (3, 7) 0 [] = some (0x22e09, 0, 0x00, []) := by decide +kernel

/-- 95 V3 row 18. -/
theorem test_div_by_zero_wrapping : after 0x00000C04 (4, 5) (4, 0) 0 [] = some (0, 0, 0x03, []) := by decide +kernel

/-- 95 V3 row 22. -/
theorem test_rem : after 0x00000205 (2, 3) (2, 100) 0 [] = some (3, 0, 0x00, []) := by decide +kernel

/-- 95 V3 row 19. -/
theorem test_rem_by_zero_saturating : after 0x00001005 (0, 0) (0, 0) 0 [] = some (0, 0, 0x03, []) := by decide +kernel

/-- 95 V3 row 27. -/
theorem test_divrem : after 0x00000606 (6, (2 ^ 1000 + 5)) (6, (2 ^ 500)) 0 [] = some (2 ^ 500, 5, 0x00, []) := by decide +kernel

/-- 95 E5. -/
theorem test_divrem_by_zero : after 0x00000406 (4, 5) (4, 0) 0 [] = some (0, 0, 0x03, []) := by decide +kernel

/-- 95 V4 row 2. -/
theorem test_shl_loses_top_bit : after 0x00000010 (0, 22) (0, 0) 1 [] = some (12, 0, 0x00, []) := by decide +kernel

/-- 95 V4 row 7. -/
theorem test_shl_largest_count : after 0x00000410 (4, (2 ^ 256 - 1)) (0, 0) 4294967295 [] = some (0, 0, 0x00, []) := by decide +kernel

/-- 95 V4 row 12. -/
theorem test_shr : after 0x00000011 (0, 31) (0, 0) 4 [] = some (1, 0, 0x00, []) := by decide +kernel

/-- 95 V4 row 13. -/
theorem test_shr_whole_width : after 0x00000011 (0, 31) (0, 0) 5 [] = some (0, 0, 0x00, []) := by decide +kernel

/-- 95 V4 row 17. -/
theorem test_and : after 0x00000320 (3, 0xff00ff) (3, 0x0f0f0f) 0 [] = some (0x0f000f, 0, 0x00, []) := by decide +kernel

/-- 95 V4 row 20. -/
theorem test_or : after 0x00000521 (5, (2 ^ 511)) (5, 1) 0 [] = some (2 ^ 511 + 1, 0, 0x00, []) := by decide +kernel

/-- 95 V4 row 22. -/
theorem test_xor : after 0x00000122 (1, 42) (1, 63) 0 [] = some (21, 0, 0x00, []) := by decide +kernel

/-- 95 V4 row 23. -/
theorem test_not_stays_in_width : after 0x00000023 (0, 0) (0, 0) 0 [] = some (31, 0, 0x00, []) := by decide +kernel

/-- 95 V6 row 12. -/
theorem test_not_ignores_b : after 0x00000023 (0, 3) (6, 2 ^ 1024 - 1) 0 [] = some (28, 0, 0x00, []) := by decide +kernel

/-- 95 V1 row 5. -/
theorem test_cmp_top_limb : after 0x00000430 (4, (2 ^ 192)) (4, (2 ^ 192 - 1)) 0 [] = some (0, 0, 0x60, []) := by decide +kernel

/-- 95 V1 row 20. -/
theorem test_cmp_width_mismatch : after 0x00000430 (4, 1) (3, 1) 0 [] = some (0, 0, 0x04, []) := by decide +kernel

/-- 95 V1 row 8. -/
theorem test_eq : after 0x00000131 (1, 5) (1, 5) 0 [] = some (0, 0, 0xC0, []) := by decide +kernel

/-- 95 V1 row 21. -/
theorem test_eq_invalid_operand : after 0x00000031 (0, 32) (0, 0) 0 [] = some (0, 0, 0x0A, []) := by decide +kernel

/-- 95 V1 row 11. -/
theorem test_ne : after 0x00000232 (2, 0) (2, 127) 0 [] = some (0, 0, 0xA0, []) := by decide +kernel

/-- 95 V1 row 12. -/
theorem test_lt_of_equals : after 0x00000333 (3, 3) (3, 3) 0 [] = some (0, 0, 0x40, []) := by decide +kernel

/-- 95 V1 row 13. -/
theorem test_lt : after 0x00000333 (3, 2) (3, 3) 0 [] = some (0, 0, 0xA0, []) := by decide +kernel

/-- 95 V1 row 14. -/
theorem test_le_of_equals : after 0x00000334 (3, 3) (3, 3) 0 [] = some (0, 0, 0xC0, []) := by decide +kernel

/-- 95 V1 row 15. -/
theorem test_le : after 0x00000334 (3, 4) (3, 3) 0 [] = some (0, 0, 0x60, []) := by decide +kernel

/-- 95 V1 row 16. -/
theorem test_gt : after 0x00000435 (4, (2 ^ 256 - 1)) (4, 0) 0 [] = some (0, 0, 0xE0, []) := by decide +kernel

/-- 95 V1 row 18. -/
theorem test_ge : after 0x00000536 (5, 0) (5, 1) 0 [] = some (0, 0, 0x20, []) := by decide +kernel

/-- 95 V5 row 3. -/
theorem test_tobytes_big : after 0x00000340 (3, 0x10203) (0, 0) 0 [] = some (0, 0, 0x00, [0x01, 0x02, 0x03]) := by decide +kernel

/-- 95 V5 row 4. -/
theorem test_tobytes_little : after 0x00002340 (3, 0x10203) (0, 0) 0 [] = some (0, 0, 0x00, [0x03, 0x02, 0x01]) := by decide +kernel

/-- 95 V5 row 9. -/
theorem test_frombytes_little : after 0x00002341 (0, 0) (0, 0) 0 [0x01, 0x02, 0x03] = some (0x30201, 0, 0x00, []) := by decide +kernel

/-- 95 V5 row 15. -/
theorem test_frombytes_overflow : after 0x00000241 (0, 0) (0, 0) 0 [0x80] = some (0, 0, 0x08, []) := by decide +kernel

/-- 95 V5 row 20. -/
theorem test_tohex : after 0x00000342 (3, 0xabcdef) (0, 0) 0 [] = some (0, 0, 0x00, [0x61, 0x62, 0x63, 0x64, 0x65, 0x66]) := by decide +kernel

/-- 95 V5 row 32. -/
theorem test_fromhex_mixed_case : after 0x00000343 (0, 0) (0, 0) 0 [0x41, 0x62, 0x43, 0x64, 0x45, 0x66] = some (0xabcdef, 0, 0x00, []) := by decide +kernel

/-- 95 V5 row 39. -/
theorem test_fromhex_odd_beats_bad_digit : after 0x00000343 (0, 0) (0, 0) 0 [0x61, 0x62, 0x63, 0x64, 0x65, 0x67, 0x31] = some (0, 0, 0x06, []) := by decide +kernel

/-- 95 V6 row 1. -/
theorem test_all_zero_word_is_illegal : after 0x00000000 (0, 0) (0, 0) 0 [] = some (0, 0, 0x09, []) := by decide +kernel

/-- 95 V6 row 4. -/
theorem test_reserved_width_is_illegal : after 0x00000701 (0, 0) (0, 0) 0 [] = some (0, 0, 0x09, []) := by decide +kernel

/-- R37, R127: reset discards what is in flight. -/
theorem test_reset_edge : (match step { inFlight 0x00000001 (0, 1) (0, 1) 0 [] with pins := { Pins.zero with rst := true } } with
    | .next t => !t.busy && !t.rspValid && t.rsp.status == 0
    | .fault _ => false
    | .refused _ => false) = true := by decide +kernel

/-- The unit runs the word that `withFetchWord` puts in LATCH at the very next edge. -/
theorem test_withFetchWord : (match step (State.reset.withFetchWord 32 0x00000007) with
    | .next t => t.rspValid && t.rsp.res0.val == 1
    | .fault _ => false
    | .refused _ => false) = true := by decide +kernel

/-- R85, R88: a carry and a borrow across limbs, and the precise case. -/
theorem test_reference_limbs : Reference.add 4 3 12 0x0ff 0x001 = (0x100, false) ∧ Reference.add 8 1 5 31 1 = (0, true) ∧
    Reference.sub 4 3 12 0x100 0x001 = (0x0ff, false) ∧ Reference.sub 8 1 5 0 1 = (31, true) := by decide +kernel

/-! ### Witnesses for the hypotheses of the statements -/

/-- An idle state whose host presents a command. -/
def presenting : State := { State.reset with pins := { Pins.zero with cmdValid := true } }

/-- For the rules of the binary commands and CompareAgreesWithBigEndianBytes: operands at the end of their range. -/
theorem witness_binary_ready : BinaryReady 6 1024 (inFlight 0x601 (6, 2 ^ 1024 - 1) (6, 2 ^ 1024 - 1) 0 []) ∧
    BinaryReady 0 5 (inFlight 0x001 (0, 31) (0, 0) 0 []) := by decide +kernel

/-- For the rules of the unary commands, IncIsAddOfOne and the two round trips: operand A at the end of its range, B unread. -/
theorem witness_unary_ready : UnaryReady 6 1024 (inFlight 0x607 (6, 2 ^ 1024 - 1) (7, 5) 0 []) ∧
    UnaryReady 2 7 (inFlight 0x207 (2, 127) (0, 0) 0 []) := by decide +kernel

/-- The four cases of ADD: in range, and out of range under each policy. -/
theorem witness_add_cases :
    BinaryReady 0 5 (inFlight 0x001 (0, 30) (0, 1) 0 []) ∧ ¬ 2 ^ 5 ≤ valA (inFlight 0x001 (0, 30) (0, 1) 0 []) + 1 ∧
    BinaryReady 0 5 (inFlight 0x801 (0, 31) (0, 1) 0 []) ∧ 2 ^ 5 ≤ valA (inFlight 0x801 (0, 31) (0, 1) 0 []) + 1 := by
  decide +kernel

/-- SUB: a = b, and a one below b. -/
theorem witness_sub_cases : BinaryReady 3 24 (inFlight 0x302 (3, 7) (3, 7) 0 []) ∧
    BinaryReady 3 24 (inFlight 0x302 (3, 6) (3, 7) 0 []) := by decide +kernel

/-- For DIV, REM, DIVREM and the two statements on them: divisor 0, divisor 1, and a divisor above the dividend. -/
theorem witness_divisors : BinaryReady 3 24 (inFlight 0x304 (3, 7) (3, 0) 0 []) ∧ valB (inFlight 0x304 (3, 7) (3, 0) 0 []) = 0 ∧
    BinaryReady 3 24 (inFlight 0x304 (3, 7) (3, 1) 0 []) ∧ valB (inFlight 0x304 (3, 7) (3, 1) 0 []) ≠ 0 ∧
    BinaryReady 3 24 (inFlight 0x304 (3, 7) (3, 8) 0 []) := by decide +kernel

/-- Shift counts W - 1 and W. -/
theorem witness_shift_counts : UnaryReady 4 256 (inFlight 0x410 (4, 1) (0, 0) 255 []) ∧
    count (inFlight 0x410 (4, 1) (0, 0) 255 []) = 255 ∧ UnaryReady 4 256 (inFlight 0x410 (4, 1) (0, 0) 256 []) ∧
    count (inFlight 0x410 (4, 1) (0, 0) 256 []) = 256 := by decide +kernel

/-- Comparisons: less, equal, greater. -/
theorem witness_comparisons : BinaryReady 1 6 (inFlight 0x130 (1, 0) (1, 63) 0 []) ∧
    BinaryReady 1 6 (inFlight 0x130 (1, 63) (1, 63) 0 []) ∧ BinaryReady 1 6 (inFlight 0x130 (1, 63) (1, 0) 0 []) := by
  decide +kernel

/-- For `OperandErrors` in the command rules and for ReservedWidthCodeIsIllegal: the reserved width code, a wrong tag on either operand, a value of 2^W. -/
theorem witness_operand_errors : widthOf (Instr.add 7 .checked).wsel = none ∧
    widthOf (Instr.add 0 .checked).wsel = some 5 ∧
    (∃ x ∈ [(inFlight 1 (1, 0) (0, 0) 0 []).latch.a, (inFlight 1 (1, 0) (0, 0) 0 []).latch.b], x.wsel ≠ 0) ∧
    (∃ x ∈ [(inFlight 1 (0, 0) (7, 0) 0 []).latch.a, (inFlight 1 (0, 0) (7, 0) 0 []).latch.b], x.wsel ≠ 0) ∧
    (∀ x ∈ [(inFlight 1 (0, 32) (0, 0) 0 []).latch.a, (inFlight 1 (0, 32) (0, 0) 0 []).latch.b], x.wsel = 0) ∧
    (∃ x ∈ [(inFlight 1 (0, 32) (0, 0) 0 []).latch.a, (inFlight 1 (0, 32) (0, 0) 0 []).latch.b],
      2 ^ 5 ≤ x.val.toNat) := by decide +kernel

/-- The completing edge of a legal command whose operand B is mis-tagged, and of one whose operand A is too large. -/
theorem witness_operandChecksComeBeforeTheCommand :
    Completing (inFlight 4 (0, 3) (1, 0) 0 []) ∧ decode (inFlight 4 (0, 3) (1, 0) 0 []).latch.cmd = .ok (.div 0 .checked) ∧
    (∃ x ∈ [(inFlight 4 (0, 3) (1, 0) 0 []).latch.a, (inFlight 4 (0, 3) (1, 0) 0 []).latch.b], x.wsel ≠ 0) ∧
    Completing (inFlight 4 (0, 32) (0, 0) 0 []) ∧
    decode (inFlight 4 (0, 32) (0, 0) 0 []).latch.cmd = .ok (.div 0 .checked) ∧
    (∀ x ∈ [(inFlight 4 (0, 32) (0, 0) 0 []).latch.a, (inFlight 4 (0, 32) (0, 0) 0 []).latch.b], x.wsel = 0) ∧
    (∃ x ∈ [(inFlight 4 (0, 32) (0, 0) 0 []).latch.a, (inFlight 4 (0, 32) (0, 0) 0 []).latch.b],
      2 ^ 5 ≤ x.val.toNat) := by
  unfold Completing; decide +kernel

/-- A command of legal width for every statement that says how one is encoded. -/
theorem witness_encoded : (Instr.frombytes 6 .saturating .little).wf = true ∧ (Instr.add 0 .checked).wf = true := by decide +kernel

theorem witness_encodeOfDecode : decode 0x00003641#32 = .ok (.frombytes 6 .saturating .little) := by decide +kernel

/-- A reset edge with a command in flight. -/
theorem witness_resetEdgeRestoresResetValues :
    { inFlight 1 (0, 1) (0, 1) 0 [] with pins := { Pins.zero with rst := true } }.pins.rst = true ∧
    { inFlight 1 (0, 1) (0, 1) 0 [] with pins := { Pins.zero with rst := true } }.busy = true := ⟨rfl, rfl⟩

theorem witness_acceptanceLatchesThePorts : (presenting.pins.rst = false ∧ presenting.pins.cmdValid = true ∧
    presenting.cmdReady = true) ∧ State.reset.pins.cmdValid = false ∧
    { presenting with busy := true }.cmdReady = false := by decide +kernel

theorem witness_restingEdgeHoldsTheRegisters : State.reset.pins.rst = false ∧ State.reset.busy = false ∧
    State.reset.pins.cmdValid = false := by decide +kernel

/-- Two edges left: the least for which an edge does not complete. -/
theorem witness_inFlightEdgeHoldsTheRegisters :
    { presenting with busy := true, cyclesLeft := 2 }.pins.rst = false ∧
    { presenting with busy := true, cyclesLeft := 2 }.busy = true ∧
    1 < { presenting with busy := true, cyclesLeft := 2 }.cyclesLeft := by decide +kernel

/-- For ResponseChangesOnlyAtCompletionOrReset and ResultTagIsTheCommandsWsel. -/
theorem witness_completing : Completing (inFlight 1 (0, 1) (0, 1) 0 []) := ⟨rfl, rfl, Nat.le_refl 1⟩

/-- Two completing states with one LATCH and different responses before. -/
theorem witness_responseDependsOnLatchAlone : Completing (inFlight 1 (0, 1) (0, 1) 0 []) ∧
    Completing { inFlight 1 (0, 1) (0, 1) 0 [] with rsp := errorResponse 0 .overflow, rspValid := true } ∧
    (inFlight 1 (0, 1) (0, 1) 0 []).latch =
      { inFlight 1 (0, 1) (0, 1) 0 [] with rsp := errorResponse 0 .overflow, rspValid := true }.latch :=
  ⟨⟨rfl, rfl, Nat.le_refl 1⟩, ⟨rfl, rfl, Nat.le_refl 1⟩, rfl⟩

theorem witness_stepRunsTheDecodedCommand : (inFlight 0x301 (3, 1) (3, 1) 0 []).pins.rst = false ∧
    (inFlight 0x301 (3, 1) (3, 1) 0 []).busy = true ∧ (inFlight 0x301 (3, 1) (3, 1) 0 []).cyclesLeft ≤ 1 ∧
    decode (inFlight 0x301 (3, 1) (3, 1) 0 []).latch.cmd = .ok (.add 3 .checked) := by decide +kernel

/-- One word for each clause of R63. -/
theorem witness_illegal_words : IllegalWord 0x00000008#32 ∧ IllegalWord 0x00000701#32 ∧ IllegalWord 0x00001801#32 ∧
    IllegalWord 0x80000001#32 ∧ IllegalWord 0x00002042#32 ∧ ¬ IllegalWord 0x00002041#32 ∧
    Completing (inFlight 0x00000000 (0, 0) (0, 0) 0 []) ∧ IllegalWord (inFlight 0x00000000 (0, 0) (0, 0) 0 []).latch.cmd := by
  refine ⟨?_, ?_, ?_, ?_, ?_, ?_, ⟨rfl, rfl, Nat.le_refl 1⟩, ?_⟩ <;> unfold IllegalWord <;> decide +kernel

theorem witness_acceptedCommandCompletesAfterItsLatency : presenting.pins.rst = false ∧ presenting.pins.cmdValid = true ∧
    presenting.busy = false ∧ ∀ p ∈ presenting.hostNext, p.rst = false :=
  ⟨rfl, rfl, rfl, fun p hp => by cases hp⟩

/-- The invariant holds with a command in flight. -/
theorem witness_stepKeepsTheInvariant :
    { presenting with busy := true, cyclesLeft := 1 }.rspValid = false ∧ 1 ≤ Config.latMax :=
  ⟨rfl, by unfold Config.latMax; omega⟩

theorem witness_idleLatchIsUnobservable :
    SameButIdleLatch State.reset { State.reset with latch := (inFlight 1 (0, 1) (0, 1) 0 []).latch } ∧
    State.reset.latch.cmd ≠ (inFlight 1 (0, 1) (0, 1) 0 []).latch.cmd :=
  ⟨⟨rfl, rfl, rfl, rfl, rfl, rfl, fun h => by cases h⟩, by decide⟩

theorem witness_onlyDivremWritesRes1 : ∀ ws pol, Instr.fromhex 0 .checked ≠ .divrem ws pol := by
  intro ws pol h; cases h

/-- The clauses on ORD and PRED: a comparator that is ready, a command that is none, and a comparator that never is. -/
theorem witness_ordAndPredBelongToTheComparator :
    (Ready (.lt 3 .checked) 24 (inFlight 0x333 (3, 2) (3, 3) 0 []) ∧ (relationOf (.lt 3 .checked)).isSome = true ∧
      decode 0x333 = .ok (.lt 3 .checked)) ∧
    (relationOf (.add 3 .checked)).isNone = true ∧ decode 0x301 = .ok (.add 3 .checked) ∧
    ∀ W, ¬ Ready (.lt 3 .checked) W (inFlight 0x333 (3, 2) (4, 3) 0 []) := by
  refine ⟨⟨show BinaryReady 3 24 _ by decide +kernel, rfl, by decide⟩, rfl, by decide, fun W h => ?_⟩
  exact absurd h.2.2.1 (by decide)

/-- OVF both ways: an overflow that is ready, and a non-arithmetic command; both complete at the coming edge. -/
theorem witness_ovfIsTheExactCondition : Completing (inFlight 0x807 (0, 31) (0, 0) 0 []) ∧
    decode 0x807 = .ok (.inc 0 .wrapping) ∧ Ready (.inc 0 .wrapping) 5 (inFlight 0x807 (0, 31) (0, 0) 0 []) ∧
    outOfRange (.inc 0 .wrapping) 5 (inFlight 0x807 (0, 31) (0, 0) 0 []) = true ∧
    outOfRange (.shl 0 .wrapping) 5 (inFlight 0x810 (0, 31) (0, 0) 1 []) = false ∧
    decode 0x007 = .ok (.inc 0 .checked) ∧ Ready (.inc 0 .checked) 5 (inFlight 0x007 (0, 31) (0, 0) 0 []) ∧
    outOfRange (.inc 0 .checked) 5 (inFlight 0x007 (0, 31) (0, 0) 0 []) = true :=
  ⟨⟨rfl, rfl, Nat.le_refl 1⟩, by decide, show UnaryReady 0 5 _ by decide +kernel, by decide +kernel, by decide +kernel,
    by decide, show UnaryReady 0 5 _ by decide +kernel, by decide +kernel⟩

/-- Two samples that differ in the ports a unary command does not read. -/
theorem witness_unreadPortsAreIgnored :
    AgreeOnRead (.not 0 .checked) (inFlight 0x23 (0, 3) (0, 0) 0 []).latch (inFlight 0x23 (0, 3) (6, 9) 5 [1]).latch ∧
    (inFlight 0x23 (0, 3) (0, 0) 0 []).latch.b ≠ (inFlight 0x23 (0, 3) (6, 9) 5 [1]).latch.b := by
  refine ⟨⟨fun _ => rfl, fun h => ?_, fun h => ?_, fun h => ?_⟩, by decide +kernel⟩ <;> cases h

/-- FROMBYTES: a wrong length, a value of 2^W, the largest value that fits. -/
theorem witness_frombytes_cases : inLen (inFlight 0x41 (0, 0) (0, 0) 0 [1, 2]) ≠ 1 ∧
    (inLen (inFlight 0x41 (0, 0) (0, 0) 0 [0x20]) = 1 ∧ inAt (inFlight 0x41 (0, 0) (0, 0) 0 [0x20]) 0 = 0x20) ∧
    (inLen (inFlight 0x41 (0, 0) (0, 0) 0 [0x1f]) = 1 ∧ inAt (inFlight 0x41 (0, 0) (0, 0) 0 [0x1f]) 0 = 0x1f) := by
  decide +kernel

/-- FROMHEX: odd length at a byte-aligned width, a wrong length, a bad digit, and two good digits. -/
theorem witness_fromhex_cases :
    (24 % 8 = 0 ∧ inLen (inFlight 0x343 (0, 0) (0, 0) 0 [0x61]) % 2 = 1) ∧
    (¬ (5 % 8 = 0 ∧ inLen (inFlight 0x43 (0, 0) (0, 0) 0 [0x66]) % 2 = 1) ∧
      inLen (inFlight 0x43 (0, 0) (0, 0) 0 [0x66]) ≠ 2) ∧
    (inLen (inFlight 0x43 (0, 0) (0, 0) 0 [0x67, 0x30]) = 2 ∧ ∃ i < 2, ∀ d,
      ¬ IsHex (inAt (inFlight 0x43 (0, 0) (0, 0) 0 [0x67, 0x30]) i) d) ∧
    (inLen (inFlight 0x43 (0, 0) (0, 0) 0 [0x31, 0x46]) = 2 ∧ ∀ i < 2,
      IsHex (inAt (inFlight 0x43 (0, 0) (0, 0) 0 [0x31, 0x46]) i) (if i = 0 then 1 else 15)) := by
  refine ⟨by decide +kernel, by decide +kernel, ⟨by decide +kernel, 0, by decide, fun d h => ?_⟩, by decide +kernel, ?_⟩
  · have hc : (inAt (inFlight 0x43 (0, 0) (0, 0) 0 [0x67, 0x30]) 0).toNat = 0x67 := by decide +kernel
    unfold IsHex at h; rw [hc] at h; omega
  · unfold IsHex; decide +kernel

/-- A state that presents to FROMBYTES or FROMHEX what an encoding command left in OUT. -/
theorem witness_round_trips (r : Response) : ∃ s' : State, s'.latch.inBytes = r.out ∧ s'.latch.inLen = r.outLen :=
  ⟨{ State.reset with latch := { Ports.zero with inBytes := r.out, inLen := r.outLen } }, rfl, rfl⟩

/-- For every text, a state that holds its lower-case form; and the ends of the upper-case range. -/
theorem witness_hexDecodingIgnoresCase : (∀ s : State, ∃ s' : State, s'.latch.inLen = s.latch.inLen ∧
    ∀ (i : Nat) (h : i < 256), s'.latch.inBytes[i] = toLower s.latch.inBytes[i]) ∧
    toLower 0x40 = 0x40 ∧ toLower 0x41 = 0x61 ∧ toLower 0x46 = 0x66 ∧ toLower 0x47 = 0x47 := by
  refine ⟨fun s => ⟨{ s with latch := { s.latch with inBytes := s.latch.inBytes.map toLower } }, rfl, fun i h => ?_⟩,
    by decide⟩
  simp

/-- For the limb statements: limbs that a width fills, one limb that it fills, and one larger backing word. -/
theorem witness_fits : Reference.Fits 64 16 1024 ∧ Reference.Fits 24 1 24 ∧ Reference.Fits 25 1 24 ∧
    (2 ^ 24 - 1 < 2 ^ 24 ∧ 0 < 2 ^ 24) := by
  unfold Reference.Fits; decide +kernel

theorem witness_longDivisionAgrees : 1000000 < 2 ^ 24 ∧ 7 ≠ 0 := by decide +kernel

end Sys2Proof.Tests
end

section
/-! PROOF. Every edge keeps the invariant of the unit: the responses the block can build are well-formed, so every command
completes with a well-formed response, and every case of `step_cases` keeps `State.Inv`. -/

namespace Sys2Proof.Machine

/-! ### Result registers -/

@[simp] theorem Tagged.nat_zero (ws : WSel) : (Tagged.mk ws 0).nat = 0 := BitVec.toNat_zero

theorem resultFits_zero (ws : WSel) : resultFits ⟨ws, 0⟩ = true := by
  unfold resultFits
  cases widthOf ws <;> simp only [Tagged.nat_zero, Nat.two_pow_pos, decide_true]

theorem resultFits_ofNat {ws : WSel} {W v : Nat} (h : widthOf ws = some W) (hv : v < 2 ^ W) :
    resultFits ⟨ws, BitVec.ofNat 1024 v⟩ = true := by
  unfold resultFits Tagged.nat
  simp only [h, toNat_ofNat_of_lt h hv, hv, decide_true]

/-! ### How a well-formed response is built -/

theorem Response.default_wf (ws : WSel) : (Response.default ws).Wf where
  sameTag := rfl
  res0Fits := resultFits_zero ws
  res1Fits := resultFits_zero ws
  outLen := by simp
  outPadded := fun i h _ => by simp
  reserved := by rw [Response.default_status]; decide
  errKnown := by rw [Response.default_status]; decide
  predNeedsOrd := by rw [Response.default_status]; decide
  ordNeedsNoOvf := by rw [Response.default_status]; decide
  failed := fun h => absurd rfl h

theorem Response.zero_wf : Response.zero.Wf := Response.default_wf 0

/-- `raise E` leaves a well-formed response under any tag, the reserved one included (R115). -/
theorem errorResponse_wf (ws : WSel) (e : ErrCode) : (errorResponse ws e).Wf where
  sameTag := rfl
  res0Fits := resultFits_zero ws
  res1Fits := resultFits_zero ws
  outLen := by simp
  outPadded := (Response.default_wf ws).outPadded
  reserved := by simp
  errKnown := by simpa using e.code_le_ten
  predNeedsOrd := by simp
  ordNeedsNoOvf := by simp
  failed := fun _ =>
    ⟨Tagged.nat_zero ws, Tagged.nat_zero ws, rfl, by simp, by simpa using e.setsOvf_iff⟩

section Build
variable {r : Response} {W : Nat}

theorem Response.Wf.setRes0 {v : Nat} (hr : r.Wf) (hok : statusErr r.status = 0#4)
    (hW : widthOf r.res0.wsel = some W) (hv : v < 2 ^ W) : (r.setRes0 v).Wf :=
  { hr with
    sameTag := hr.sameTag
    res0Fits := resultFits_ofNat hW hv
    failed := fun h => absurd hok h }

theorem Response.Wf.setRes1 {v : Nat} (hr : r.Wf) (hok : statusErr r.status = 0#4)
    (hW : widthOf r.res1.wsel = some W) (hv : v < 2 ^ W) : (r.setRes1 v).Wf :=
  { hr with
    sameTag := hr.sameTag
    res1Fits := resultFits_ofNat hW hv
    failed := fun h => absurd hok h }

theorem Response.Wf.setOvf (hr : r.Wf) (b : Bool) : (r.setOvf b).Wf :=
  { hr with
    reserved := by simp
    errKnown := by simp
    predNeedsOrd := by simp
    ordNeedsNoOvf := by simp
    failed := by simp }

theorem Response.Wf.setOrdPred {ord : BitVec 2} (hr : r.Wf) (hord : ord ≠ 0#2) (b : Bool) :
    (r.setOrdPred ord b).Wf :=
  { hr with
    reserved := by simp
    errKnown := by simp
    predNeedsOrd := by simp [hord]
    ordNeedsNoOvf := by simp
    failed := by simp }

theorem Response.Wf.setOut {bytes : List Byte} (hr : r.Wf) (hok : statusErr r.status = 0#4)
    (hlen : bytes.length ≤ bufBytes) : (r.setOut bytes).Wf := by
  have hn : (r.setOut bytes).outLen.toNat = bytes.length := by
    rw [Response.setOut_outLen, BitVec.toNat_ofNat]
    exact Nat.mod_eq_of_lt (by unfold bufBytes at hlen; omega)
  exact {
    sameTag := by simpa using hr.sameTag
    res0Fits := by simpa using hr.res0Fits
    res1Fits := by simpa using hr.res1Fits
    outLen := hn.trans_le hlen
    outPadded := fun i h hi => by
      rw [hn] at hi
      simp [hi]
    reserved := by simpa using hr.reserved
    errKnown := by simpa using hr.errKnown
    predNeedsOrd := by simpa using hr.predNeedsOrd
    ordNeedsNoOvf := by simpa using hr.ordNeedsNoOvf
    failed := by simp [hok] }

end Build

/-- A response of value `v` in RES0 alone. -/
theorem Response.default_setRes0_wf {ws : WSel} {W v : Nat} (hW : widthOf ws = some W) (hv : v < 2 ^ W) :
    ((Response.default ws).setRes0 v).Wf :=
  (Response.default_wf ws).setRes0 rfl hW hv

/-! ### What the rules give -/

/-- The rule raises an error or gives a well-formed response. -/
def OkWf (o : Except ErrCode Response) : Prop := ∀ r, o = .ok r → r.Wf

@[simp] theorem okWf_error (e : ErrCode) : OkWf (.error e) := fun _ h => by cases h

@[simp] theorem okWf_ok {r : Response} : OkWf (.ok r) ↔ r.Wf :=
  ⟨fun h => h r rfl, fun h _ hr => Except.ok.inj hr ▸ h⟩

section Rules
variable {ws : WSel} {W : Nat}

/-- Under every policy the result is within the width, since an exact result out of range sets the condition (R83). -/
theorem applyPolicy_okWf {pol : Policy} {e : ErrCode} {x : Int} {cond : Bool} {bound : Nat} (hW : widthOf ws = some W)
    (hx : cond = false → x.toNat < 2 ^ W) (hb : bound < 2 ^ W) : OkWf (applyPolicy ws W pol e x cond bound) := by
  have build : ∀ b v, v < 2 ^ W → OkWf (.ok (((Response.default ws).setOvf b).setRes0 v)) := fun b v hv =>
    okWf_ok.2 (((Response.default_wf ws).setOvf b).setRes0 (by simp) hW hv)
  unfold applyPolicy
  cases cond with
  | false => exact build false _ (hx rfl)
  | true =>
    cases pol with
    | checked => exact okWf_error e
    | wrapping =>
      have hpos : 0 < 2 ^ W := Nat.two_pow_pos W
      have hlt : x % (2 ^ W : Nat) < (2 ^ W : Nat) := Int.emod_lt_of_pos x (by exact_mod_cast hpos)
      exact build true _ (by omega)
    | saturating => exact build true _ hb

theorem nonzeroDivisor_okWf {b : Nat} {r : Response} (hr : r.Wf) : OkWf (nonzeroDivisor b r) := by
  unfold nonzeroDivisor
  split
  · exact okWf_error _
  · exact okWf_ok.2 hr

theorem decodedValue_okWf (hW : widthOf ws = some W) (v : Nat) : OkWf (decodedValue ws W v) := by
  unfold decodedValue
  split
  · exact okWf_error _
  · next hv => exact okWf_ok.2 (Response.default_setRes0_wf hW (Nat.lt_of_not_le hv))

end Rules

/-! ### Every command completes with a well-formed response -/

/-- The command completes on `s` with a well-formed response. -/
def Responds (s : State) (o : Host.Outcome State Fault Refusal) : Prop := ∃ r, r.Wf ∧ o = .next (s.respond r)

theorem Response.Wf.err_lt_reserved {r : Response} (hr : r.Wf) : ¬ 11#4 ≤ statusErr r.status := by
  have := hr.errKnown
  bv_omega

theorem State.complete_responds (s : State) {r : Response} (hr : r.Wf) : Responds s (s.complete r) :=
  ⟨r, hr, State.complete_of_known hr.err_lt_reserved⟩

theorem State.finish_responds (s : State) (ws : WSel) {o : Except ErrCode Response} (ho : OkWf o) :
    Responds s (s.finish ws o) := by
  cases o with
  | ok r => exact s.complete_responds (okWf_ok.1 ho)
  | error e => exact s.complete_responds (errorResponse_wf ws e)

/-- A rule needs to be looked at only at a legal width and on operands that pass the checks (R63 to R66). -/
theorem checked_okWf {ws : WSel} {ops : List Tagged} {rule : Nat → Except ErrCode Response}
    (h : ∀ W, widthOf ws = some W → (∀ x ∈ ops, x.nat < 2 ^ W) → OkWf (rule W)) : OkWf (checked ws ops rule) := by
  obtain ⟨-, hc⟩ | ⟨W, hW, ⟨-, hc⟩ | ⟨-, -, hc⟩ | ⟨hv, hc⟩⟩ := checked_cases ws ops rule <;> rw [hc]
  · exact okWf_error _
  · exact okWf_error _
  · exact okWf_error _
  · exact h W hW fun x hx => (hv x hx).2

section Classes
variable {ws : WSel} {s : State}

theorem binary_responds {rule : Nat → Nat → Nat → Except ErrCode Response}
    (h : ∀ W a b, widthOf ws = some W → a < 2 ^ W → b < 2 ^ W → OkWf (rule W a b)) : Responds s (binary ws s rule) :=
  s.finish_responds ws (checked_okWf fun W hW hv => h W _ _ hW (hv _ (by simp)) (hv _ (by simp)))

theorem unary_responds {rule : Nat → Nat → Except ErrCode Response}
    (h : ∀ W a, widthOf ws = some W → a < 2 ^ W → OkWf (rule W a)) : Responds s (unary ws s rule) :=
  s.finish_responds ws (checked_okWf fun W hW hv => h W _ hW (hv _ (by simp)))

theorem unaryCount_responds {rule : Nat → Nat → Nat → Except ErrCode Response}
    (h : ∀ W a k, widthOf ws = some W → a < 2 ^ W → OkWf (rule W a k)) : Responds s (unaryCount ws s rule) :=
  s.finish_responds ws (checked_okWf fun W hW hv => h W _ _ hW (hv _ (by simp)))

theorem bytesIn_responds {rule : Nat → Nat → List Byte → Except ErrCode Response}
    (h : ∀ W len bytes, widthOf ws = some W → OkWf (rule W len bytes)) : Responds s (bytesIn ws s rule) :=
  s.finish_responds ws (checked_okWf fun W hW _ => h W _ _ hW)

theorem relational_responds (pred : Ordering → Bool) : Responds s (relational ws s pred) :=
  binary_responds fun _ a b _ _ _ =>
    okWf_ok.2 ((Response.default_wf ws).setOrdPred (ordCode_ne_zero (compareNat a b)) _)

end Classes

theorem maskOf_lt (W : Nat) : maskOf W < 2 ^ W := Nat.sub_lt (Nat.two_pow_pos W) Nat.one_pos

theorem shiftLeftValue_lt (W a k : Nat) : shiftLeftValue W a k < 2 ^ W := by
  unfold shiftLeftValue
  split
  · exact Nat.two_pow_pos W
  · exact Nat.mod_lt _ (Nat.two_pow_pos W)

theorem shiftRightValue_le (W a k : Nat) : shiftRightValue W a k ≤ a := by
  unfold shiftRightValue
  split
  · exact Nat.zero_le a
  · exact Nat.div_le_self a _

section Commands
variable (ws : WSel) (pol : Policy) (en : Endian) (s : State)

theorem execAdd_responds : Responds s (execAdd ws pol s) :=
  binary_responds fun W _ _ hW _ _ => applyPolicy_okWf hW (fun h => Nat.lt_of_not_le (of_decide_eq_false h)) (maskOf_lt W)

theorem execSub_responds : Responds s (execSub ws pol s) :=
  binary_responds fun W a b hW ha _ => applyPolicy_okWf hW (by omega) (Nat.two_pow_pos W)

theorem execMul_responds : Responds s (execMul ws pol s) :=
  binary_responds fun W _ _ hW _ _ => applyPolicy_okWf hW (fun h => Nat.lt_of_not_le (of_decide_eq_false h)) (maskOf_lt W)

theorem execInc_responds : Responds s (execInc ws pol s) :=
  unary_responds fun W _ hW _ => applyPolicy_okWf hW (fun h => Nat.lt_of_not_le (of_decide_eq_false h)) (maskOf_lt W)

theorem execDiv_responds : Responds s (execDiv ws pol s) :=
  binary_responds fun _ a b hW ha _ =>
    nonzeroDivisor_okWf (Response.default_setRes0_wf hW ((Nat.div_le_self a b).trans_lt ha))

theorem execRem_responds : Responds s (execRem ws pol s) :=
  binary_responds fun _ a b hW ha _ =>
    nonzeroDivisor_okWf (Response.default_setRes0_wf hW ((Nat.mod_le a b).trans_lt ha))

theorem execDivrem_responds : Responds s (execDivrem ws pol s) :=
  binary_responds fun _ a b hW ha _ =>
    nonzeroDivisor_okWf ((Response.default_setRes0_wf hW ((Nat.div_le_self a b).trans_lt ha)).setRes1 rfl hW
      ((Nat.mod_le a b).trans_lt ha))

theorem execShl_responds : Responds s (execShl ws pol s) :=
  unaryCount_responds fun W a k hW _ => okWf_ok.2 (Response.default_setRes0_wf hW (shiftLeftValue_lt W a k))

theorem execShr_responds : Responds s (execShr ws pol s) :=
  unaryCount_responds fun W a k hW ha =>
    okWf_ok.2 (Response.default_setRes0_wf hW ((shiftRightValue_le W a k).trans_lt ha))

theorem execAnd_responds : Responds s (execAnd ws pol s) :=
  binary_responds fun _ a _ hW _ hb => okWf_ok.2 (Response.default_setRes0_wf hW (Nat.and_lt_two_pow a hb))

theorem execOr_responds : Responds s (execOr ws pol s) :=
  binary_responds fun W _ _ hW _ _ =>
    okWf_ok.2 (Response.default_setRes0_wf hW (Nat.mod_lt _ (Nat.two_pow_pos W)))

theorem execXor_responds : Responds s (execXor ws pol s) :=
  binary_responds fun _ _ _ hW ha hb => okWf_ok.2 (Response.default_setRes0_wf hW (Nat.xor_lt_two_pow ha hb))

theorem execNot_responds : Responds s (execNot ws pol s) :=
  unary_responds fun W a hW _ =>
    okWf_ok.2 (Response.default_setRes0_wf hW ((Nat.sub_le (maskOf W) a).trans_lt (maskOf_lt W)))

theorem execCmp_responds : Responds s (execCmp ws pol s) := relational_responds _
theorem execEq_responds : Responds s (execEq ws pol s) := relational_responds _
theorem execNe_responds : Responds s (execNe ws pol s) := relational_responds _
theorem execLt_responds : Responds s (execLt ws pol s) := relational_responds _
theorem execLe_responds : Responds s (execLe ws pol s) := relational_responds _
theorem execGt_responds : Responds s (execGt ws pol s) := relational_responds _
theorem execGe_responds : Responds s (execGe ws pol s) := relational_responds _

theorem execTobytes_responds : Responds s (execTobytes ws pol en s) :=
  unary_responds fun W a hW _ => okWf_ok.2 ((Response.default_wf ws).setOut rfl (by
    have := nbytes_le hW
    rw [bytesOf_length]; unfold bufBytes; omega))

theorem execTohex_responds : Responds s (execTohex ws pol s) :=
  unary_responds fun W a hW _ => okWf_ok.2 ((Response.default_wf ws).setOut rfl (by
    have := nbytes_le hW
    rw [hexText_length, bytesOf_length]; unfold bufBytes; omega))

theorem execFrombytes_responds : Responds s (execFrombytes ws pol en s) :=
  bytesIn_responds fun W len bytes hW => by
    split
    · exact okWf_error _
    · exact decodedValue_okWf hW _

theorem execFromhex_responds : Responds s (execFromhex ws pol s) :=
  bytesIn_responds fun W len bytes hW => by
    split
    · exact okWf_error _
    · split
      · exact okWf_error _
      · split
        · exact okWf_error _
        · exact decodedValue_okWf hW _

end Commands

theorem exec_responds (i : Instr) (s : State) : Responds s (exec i s) := by
  cases i with
  | add ws pol => exact execAdd_responds ws pol s
  | sub ws pol => exact execSub_responds ws pol s
  | mul ws pol => exact execMul_responds ws pol s
  | div ws pol => exact execDiv_responds ws pol s
  | rem ws pol => exact execRem_responds ws pol s
  | divrem ws pol => exact execDivrem_responds ws pol s
  | inc ws pol => exact execInc_responds ws pol s
  | shl ws pol => exact execShl_responds ws pol s
  | shr ws pol => exact execShr_responds ws pol s
  | and ws pol => exact execAnd_responds ws pol s
  | or ws pol => exact execOr_responds ws pol s
  | xor ws pol => exact execXor_responds ws pol s
  | not ws pol => exact execNot_responds ws pol s
  | cmp ws pol => exact execCmp_responds ws pol s
  | eq ws pol => exact execEq_responds ws pol s
  | ne ws pol => exact execNe_responds ws pol s
  | lt ws pol => exact execLt_responds ws pol s
  | le ws pol => exact execLe_responds ws pol s
  | gt ws pol => exact execGt_responds ws pol s
  | ge ws pol => exact execGe_responds ws pol s
  | tobytes ws pol en => exact execTobytes_responds ws pol en s
  | frombytes ws pol en => exact execFrombytes_responds ws pol en s
  | tohex ws pol => exact execTohex_responds ws pol s
  | fromhex ws pol => exact execFromhex_responds ws pol s

/-- The completing edge, illegal command words included (R63, R66). -/
theorem runLatched_responds (s : State) : Responds s (runLatched s) := by
  cases hd : decode s.latch.cmd with
  | ok i => rw [runLatched_of_decode hd]; exact exec_responds i s
  | error e => rw [runLatched_of_illegal hd]; exact s.complete_responds (errorResponse_wf _ _)

/-! ### The invariant along the edges -/

theorem State.respond_inv (s : State) {r : Response} (hr : r.Wf) : (s.respond r).Inv where
  rsp := hr
  inFlight := by simp
  atRest := fun _ => rfl

theorem Responds.safe {s : State} {o : Host.Outcome State Fault Refusal} (h : Responds s o) : SafeOutcome o := by
  obtain ⟨r, hr, rfl⟩ := h
  exact s.respond_inv hr

theorem State.resetEdge_inv (s : State) : s.resetEdge.Inv where
  rsp := Response.zero_wf
  inFlight := by simp
  atRest := fun _ => rfl

section Keep
variable {s : State}

theorem State.Inv.nextPins (h : s.Inv) : s.nextPins.Inv where
  rsp := by simpa using h.rsp
  inFlight := by simpa using h.inFlight
  atRest := by simpa using h.atRest

theorem State.Inv.accept (h : s.Inv) (p : Ports) : (s.accept p).Inv where
  rsp := h.rsp
  inFlight := fun _ => ⟨Config.lat_pos p, Config.lat_le p, rfl⟩
  atRest := by simp

theorem State.Inv.tick (h : s.Inv) (hb : s.busy = true) (hc : 1 < s.cyclesLeft) : s.tick.Inv where
  rsp := h.rsp
  inFlight := fun _ => by
    obtain ⟨-, hmax, hv⟩ := h.inFlight hb
    exact ⟨by rw [State.tick_cyclesLeft]; omega, by rw [State.tick_cyclesLeft]; omega, hv⟩
  atRest := by simp [hb]

end Keep

end Sys2Proof.Machine

namespace Sys2Proof

open Sys2Proof.Machine

/-- Settles O14, by the cases of an edge: only the completing edge and the reset edge write the response registers, and
every command's response is well-formed. -/
theorem stepKeepsTheInvariant : Obligations.StepKeepsTheInvariant := by
  unfold Obligations.StepKeepsTheInvariant
  intro s h
  obtain ⟨-, hs⟩ | ⟨-, -, -, hs⟩ | ⟨-, hb, hc, hs⟩ | ⟨-, -, -, hs⟩ | ⟨-, -, -, hs⟩ := step_cases s <;> rw [hs]
  · exact s.nextPins.resetEdge_inv
  · exact (runLatched_responds s.nextPins).safe
  · exact h.nextPins.tick (by simpa using hb) (by simpa using hc)
  · exact h.nextPins.accept s.pins.ports
  · exact h.nextPins

end Sys2Proof
end

section
/-! PROOF. The handshake and one edge: what a step is in each case, and that the completing edge's response is a function of
LATCH alone. -/

namespace Sys2Proof.Machine

open Sys2Proof.Claims

/-! ### One edge, case by case -/

section StepEquations
variable {s : State}

theorem step_of_rst (hr : s.pins.rst = true) : step s = .next s.nextPins.resetEdge := by
  simp [step, edge, hr]

theorem step_of_completing (h : Completing s) : step s = runLatched s.nextPins := by
  obtain ⟨hr, hb, hc⟩ := h
  simp [step, edge, hr, hb, hc]

theorem step_of_waiting (hr : s.pins.rst = false) (hb : s.busy = true) (hc : 1 < s.cyclesLeft) :
    step s = .next s.nextPins.tick := by
  simp [step, edge, hr, hb, Nat.not_le.2 hc]

theorem step_of_accepting (hr : s.pins.rst = false) (hb : s.busy = false) (hv : s.pins.cmdValid = true) :
    step s = .next (s.nextPins.accept s.pins.ports) := by
  simp [step, edge, hr, hb, hv]

theorem step_of_resting (hr : s.pins.rst = false) (hb : s.busy = false) (hv : s.pins.cmdValid = false) :
    step s = .next s.nextPins := by
  simp [step, edge, hr, hb, hv]

end StepEquations

theorem State.nextPins_eq_wiresMoved (s : State) : s.nextPins = wiresMoved s := rfl

theorem State.cmdReady_iff (s : State) : s.cmdReady = true ↔ s.busy = false ∧ s.pins.rst = false := by
  simp [State.cmdReady]

/-! ### The response of the completing edge is a function of LATCH (R36, R66) -/

/-- The response that a rule's outcome stands for: its own, or the one of the error it raises (R66). -/
def outcomeResponse (ws : WSel) : Except ErrCode Response → Response
  | .ok r => r
  | .error e => errorResponse ws e

@[simp] theorem outcomeResponse_ok (ws : WSel) (r : Response) : outcomeResponse ws (.ok r) = r := rfl

@[simp] theorem outcomeResponse_error (ws : WSel) (e : ErrCode) : outcomeResponse ws (.error e) = errorResponse ws e := rfl

theorem State.finish_eq_complete (s : State) (ws : WSel) (o : Except ErrCode Response) :
    s.finish ws o = s.complete (outcomeResponse ws o) := by cases o <;> rfl

theorem State.complete_eq_respond_iff {s : State} {q r : Response} :
    s.complete q = .next (s.respond r) ↔ ¬ 11#4 ≤ statusErr q.status ∧ q = r := by
  constructor
  · intro h
    obtain ⟨hk, hr⟩ := State.complete_cases h
    exact ⟨hk, (congrArg State.rsp hr).symm⟩
  · rintro ⟨hk, rfl⟩
    exact State.complete_of_known hk

/-- What the completing edge finishes with is fixed by LATCH. -/
theorem runLatched_finish (L : Ports) :
    ∃ ws o, ∀ s : State, s.latch = L → runLatched s = s.finish ws o := by
  cases hd : decode L.cmd with
  | error e =>
    refine ⟨wselField L.cmd, .error .illegalCommand, ?_⟩
    rintro s rfl
    exact runLatched_of_illegal hd
  | ok i =>
    obtain ⟨rule, hrule⟩ := exec_finish i
    refine ⟨i.wsel, checked i.wsel (operandsRead i { State.reset with latch := L }) (rule L), ?_⟩
    rintro s rfl
    exact (runLatched_of_decode hd).trans (hrule s)

/-- `r` is the response of the completing edge for the sample `L`, in every state. -/
def LatchAnswers (L : Ports) (r : Response) : Prop := ∀ s : State, s.latch = L → runLatched s = .next (s.respond r)

theorem exists_latchAnswers (L : Ports) : ∃ r, r.Wf ∧ LatchAnswers L r := by
  obtain ⟨ws, o, ho⟩ := runLatched_finish L
  obtain ⟨r, hr, hrun⟩ := runLatched_responds { State.reset with latch := L }
  rw [ho _ rfl, State.finish_eq_complete, State.complete_eq_respond_iff] at hrun
  refine ⟨r, hr, fun s hs => ?_⟩
  rw [ho s hs, State.finish_eq_complete]
  exact State.complete_eq_respond_iff.2 hrun

theorem LatchAnswers.execLatch {L : Ports} {r : Response} (h : LatchAnswers L r) : ExecLatch L r := ⟨_, h _ rfl, rfl⟩

theorem LatchAnswers.step {s : State} {r : Response} (h : LatchAnswers s.latch r) (hs : Completing s) :
    step s = .next (s.nextPins.respond r) := by
  rw [step_of_completing hs, h s.nextPins s.nextPins_latch]

/-! ### A command in flight with no reset scheduled -/

/-- No edge from here on is a reset edge, as the host is scheduled. -/
def NoReset (s : State) : Prop := s.pins.rst = false ∧ ∀ p ∈ s.hostNext, p.rst = false

theorem NoReset.nextPins {s : State} (h : NoReset s) : NoReset s.nextPins := by
  obtain ⟨hr, hn⟩ := h
  cases hl : s.hostNext with
  | nil => rw [s.nextPins_of_nil hl]; exact ⟨hr, hn⟩
  | cons p ps =>
    rw [s.nextPins_of_cons hl]
    exact ⟨hn p (by simp [hl]), fun q hq => hn q (by simp [hl, hq])⟩

/-- A command sampled as `p` is in flight with `n` edges left, the registers still show `r`, and no reset is scheduled. -/
structure InFlight (p : Ports) (r : Response) (n : Nat) (s : State) : Prop where
  busy : s.busy = true
  latch : s.latch = p
  rspValid : s.rspValid = false
  rsp : s.rsp = r
  cyclesLeft : s.cyclesLeft = n
  noReset : NoReset s

/-- The edge that accepts a command leaves it in flight, LAT edges from its completion (R33, R34). -/
theorem inFlight_of_accepting {s : State} (hb : s.busy = false) (hv : s.pins.cmdValid = true) (hn : NoReset s) :
    ∃ t, step s = .next t ∧ InFlight s.pins.ports s.rsp (Config.lat s.pins.ports) t :=
  ⟨_, step_of_accepting hn.1 hb hv, rfl, rfl, rfl, s.nextPins_rsp, rfl, hn.nextPins⟩

section Flight
variable {p : Ports} {r : Response} {n : Nat} {s : State}

theorem InFlight.tick (h : InFlight p r (n + 1) s) (hn : 1 ≤ n) : ∃ t, step s = .next t ∧ InFlight p r n t := by
  obtain ⟨hb, hl, hv, hr, hc, hnr⟩ := h
  exact ⟨_, step_of_waiting hnr.1 hb (by omega),
    { busy := by simpa, latch := by simpa, rspValid := by simpa, rsp := by simpa, cyclesLeft := by simp [hc]
      noReset := hnr.nextPins }⟩

theorem InFlight.completing (h : InFlight p r 1 s) : Completing s := ⟨h.noReset.1, h.busy, h.cyclesLeft.le⟩

/-- After `k` of the `n` edges left, `n - k` are left. -/
theorem InFlight.run (h : InFlight p r n s) {k : Nat} (hk : k < n) :
    ∃ m, runEdges k s = .next m ∧ InFlight p r (n - k) m := by
  induction k with
  | zero => exact ⟨s, runEdges_zero s, h⟩
  | succ k ih =>
    obtain ⟨m, hm, hf⟩ := ih (by omega)
    rw [show n - k = n - (k + 1) + 1 by omega] at hf
    obtain ⟨t, ht, hft⟩ := hf.tick (by omega)
    exact ⟨t, by rw [runEdges_succ_last hm, ht], hft⟩

end Flight

/-- At an edge that accepts nothing the operand and command ports are not read (R33). -/
theorem step_with_other_ports (s : State) (p : Ports) (h : s.pins.cmdValid = false ∨ s.cmdReady = false) :
    ∃ t u, step s = .next t ∧ step { s with pins := { s.pins with ports := p } } = .next u ∧
      (t.busy = true → s.busy = true) ∧ u.busy = t.busy ∧ u.rspValid = t.rspValid ∧ u.rsp = t.rsp ∧ u.latch = t.latch ∧
      u.cyclesLeft = t.cyclesLeft := by
  obtain ⟨r1, hs⟩ | ⟨r0, b1, due, -⟩ | ⟨r0, b1, left, hs⟩ | ⟨r0, b0, v1, -⟩ | ⟨r0, b0, v0, hs⟩ := step_cases s
  · exact ⟨_, _, hs, step_of_rst r1, by simp⟩
  · obtain ⟨r, -, hr⟩ := exists_latchAnswers s.latch
    exact ⟨_, _, hr.step ⟨r0, b1, due⟩, LatchAnswers.step hr ⟨r0, b1, due⟩, by simp⟩
  · exact ⟨_, _, hs, step_of_waiting r0 b1 left, by simp⟩
  · exact absurd h (by simp [v1, s.cmdReady_iff.2 ⟨b0, r0⟩])
  · exact ⟨_, _, hs, step_of_resting r0 b0 v0, by simp⟩

end Sys2Proof.Machine

namespace Sys2Proof.Claims

open Sys2Proof.Machine

/-! ### States that differ at most in an idle LATCH -/

section IdleLatch
variable {s s' : State}

theorem SameButIdleLatch.nextPins (h : SameButIdleLatch s s') : SameButIdleLatch s.nextPins s'.nextPins := by
  obtain ⟨hb, hv, hr, hp, hh, hc, hl⟩ := h
  cases hn : s.hostNext with
  | nil =>
    rw [s.nextPins_of_nil hn, s'.nextPins_of_nil (hh ▸ hn)]
    exact ⟨hb, hv, hr, hp, hh, hc, hl⟩
  | cons p ps =>
    rw [s.nextPins_of_cons hn, s'.nextPins_of_cons (hh ▸ hn)]
    exact ⟨hb, hv, hr, rfl, rfl, hc, hl⟩

theorem SameButIdleLatch.resetEdge (h : SameButIdleLatch s s') : SameButIdleLatch s.resetEdge s'.resetEdge := by
  obtain ⟨-, -, -, hp, hh, -, -⟩ := h
  exact ⟨rfl, rfl, rfl, hp, hh, rfl, by simp⟩

theorem SameButIdleLatch.respond (h : SameButIdleLatch s s') (r : Response) :
    SameButIdleLatch (s.respond r) (s'.respond r) := by
  obtain ⟨-, -, -, hp, hh, -, -⟩ := h
  exact ⟨rfl, rfl, rfl, hp, hh, rfl, by simp⟩

theorem SameButIdleLatch.accept (h : SameButIdleLatch s s') (p : Ports) :
    SameButIdleLatch (s.accept p) (s'.accept p) := by
  obtain ⟨-, -, hr, hp, hh, -, -⟩ := h
  exact ⟨rfl, rfl, hr, hp, hh, rfl, fun _ => rfl⟩

theorem SameButIdleLatch.tick (h : SameButIdleLatch s s') : SameButIdleLatch s.tick s'.tick := by
  obtain ⟨hb, hv, hr, hp, hh, hc, hl⟩ := h
  exact ⟨hb, hv, hr, hp, hh, congrArg (· - 1) hc, hl⟩

theorem SameButIdleLatch.outputs (h : SameButIdleLatch s s') : s.outputs = s'.outputs := by
  obtain ⟨hb, hv, hr, hp, -, -, -⟩ := h
  simp [State.outputs, State.cmdReady, hb, hv, hr, hp]

/-- Only the completing edge reads LATCH, and there a command is in flight. -/
theorem SameButIdleLatch.step (h : SameButIdleLatch s s') :
    ∃ t t', step s = .next t ∧ step s' = .next t' ∧ SameButIdleLatch t t' := by
  have hw := h.nextPins
  obtain ⟨hb, -, -, hp, -, hc, hl⟩ := h
  obtain ⟨r1, hs⟩ | ⟨r0, b1, due, -⟩ | ⟨r0, b1, left, hs⟩ | ⟨r0, b0, v1, hs⟩ | ⟨r0, b0, v0, hs⟩ := step_cases s
  · exact ⟨_, _, hs, step_of_rst (hp ▸ r1), hw.resetEdge⟩
  · obtain ⟨r, -, hr⟩ := exists_latchAnswers s.latch
    have hs' : Completing s' := ⟨hp ▸ r0, hb ▸ b1, hc ▸ due⟩
    exact ⟨_, _, hr.step ⟨r0, b1, due⟩, LatchAnswers.step (hl b1 ▸ hr) hs', hw.respond r⟩
  · exact ⟨_, _, hs, step_of_waiting (hp ▸ r0) (hb ▸ b1) (hc ▸ left), hw.tick⟩
  · refine ⟨_, _, hs, step_of_accepting (hp ▸ r0) (hb ▸ b0) (hp ▸ v1), ?_⟩
    rw [← hp]
    exact hw.accept s.pins.ports
  · exact ⟨_, _, hs, step_of_resting (hp ▸ r0) (hb ▸ b0) (hp ▸ v0), hw⟩

end IdleLatch

end Sys2Proof.Claims

namespace Sys2Proof

open Sys2Proof.Machine Sys2Proof.Claims

/-- Settles O1: each register of the reset state is defined as the value R37 gives, OUT as a buffer of zeros. -/
theorem resetStateHoldsResetValues : Obligations.ResetStateHoldsResetValues := by
  unfold Obligations.ResetStateHoldsResetValues
  exact ⟨rfl, rfl, rfl, rfl, fun i h => Vector.getElem_replicate h, rfl, rfl,
    fun p hp => (State.cmdReady_iff _).2 ⟨rfl, hp⟩⟩

/-- Settles O3: the accepting edge is an equation of `step`, and no other edge reads the ports. -/
theorem acceptanceLatchesThePorts : Obligations.AcceptanceLatchesThePorts := by
  unfold Obligations.AcceptanceLatchesThePorts
  refine ⟨fun s hr hv hready => ?_, step_with_other_ports⟩
  have hs := step_of_accepting hr (s.cmdReady_iff.1 hready).1 hv
  exact ⟨_, hs, rfl, rfl, rfl, s.nextPins_rsp⟩

/-- Settles O5: the edge in flight is an equation of `step`. -/
theorem inFlightEdgeHoldsTheRegisters : Obligations.InFlightEdgeHoldsTheRegisters := by
  unfold Obligations.InFlightEdgeHoldsTheRegisters
  intro s hr hb hc
  rw [step_of_waiting hr hb hc, State.tick, State.nextPins_cyclesLeft, State.nextPins_eq_wiresMoved]

/-- Settles O6, by the cases of an edge. -/
theorem responseChangesOnlyAtCompletionOrReset : Obligations.ResponseChangesOnlyAtCompletionOrReset := by
  unfold Obligations.ResponseChangesOnlyAtCompletionOrReset
  intro s
  obtain ⟨r1, hs⟩ | ⟨r0, b1, due, -⟩ | ⟨r0, b1, left, hs⟩ | ⟨r0, b0, -, hs⟩ | ⟨r0, b0, -, hs⟩ := step_cases s
  · exact ⟨_, hs, fun _ => .inl r1, by simp [Completing, r1]⟩
  · obtain ⟨r, -, hr⟩ := exists_latchAnswers s.latch
    have hc : Completing s := ⟨r0, b1, due⟩
    exact ⟨_, hr.step hc, fun _ => .inr hc, fun _ => hr.execLatch⟩
  · exact ⟨_, hs, by simp, by simp [Completing, left]⟩
  · exact ⟨_, hs, by simp, by simp [Completing, b0]⟩
  · exact ⟨_, hs, by simp, by simp [Completing, b0]⟩

/-- Settles O10: acceptance puts the command in flight, each edge counts one off, and at the last one LATCH still holds the
accepted ports. -/
theorem acceptedCommandCompletesAfterItsLatency : Obligations.AcceptedCommandCompletesAfterItsLatency := by
  unfold Obligations.AcceptedCommandCompletesAfterItsLatency
  intro s hr hv hb hn
  have hpos := Config.lat_pos s.pins.ports
  obtain ⟨t, ht, hf⟩ := inFlight_of_accepting hb hv ⟨hr, hn⟩
  have along : ∀ k, 1 ≤ k → k ≤ Config.lat s.pins.ports →
      ∃ m, runEdges k s = .next m ∧ InFlight s.pins.ports s.rsp (Config.lat s.pins.ports - (k - 1)) m := by
    intro k hk hle
    obtain ⟨m, hm, hfm⟩ := hf.run (k := k - 1) (by omega)
    rw [← runEdges_succ_of_next (k - 1) ht, Nat.sub_add_cancel hk] at hm
    exact ⟨m, hm, hfm⟩
  refine ⟨hpos, Config.lat_le _, fun k hk hle => ?_, ?_⟩
  · obtain ⟨m, hm, hfm⟩ := along k hk hle
    exact ⟨m, hm, hfm.busy, hfm.latch, hfm.rspValid, hfm.rsp⟩
  · obtain ⟨m, hm, hfm⟩ := along _ hpos le_rfl
    rw [Nat.sub_sub_self hpos] at hfm
    obtain ⟨r, -, hr⟩ := exists_latchAnswers m.latch
    refine ⟨_, (runEdges_succ_last hm).trans (hr.step hfm.completing), rfl, rfl, ?_⟩
    rw [← hfm.latch]
    exact hr.execLatch

/-- Settles O11: one response answers for LATCH in both states. -/
theorem responseDependsOnLatchAlone : Obligations.ResponseDependsOnLatchAlone := by
  unfold Obligations.ResponseDependsOnLatchAlone
  intro s s' hs hs' hl
  obtain ⟨r, -, hr⟩ := exists_latchAnswers s.latch
  exact ⟨_, _, hr.step hs, LatchAnswers.step (hl ▸ hr) hs', rfl⟩

/-- Settles O13: the reset state is at rest and its response is the default one under tag 0. -/
theorem resetMeetsTheInvariant : Obligations.ResetMeetsTheInvariant := by
  unfold Obligations.ResetMeetsTheInvariant
  exact ⟨Response.zero_wf, by simp [State.reset], fun _ => rfl⟩

/-- Settles O15: every case of an edge keeps the relation. -/
theorem idleLatchIsUnobservable : Obligations.IdleLatchIsUnobservable := by
  unfold Obligations.IdleLatchIsUnobservable
  exact fun _ _ h => ⟨h.outputs, h.step⟩

end Sys2Proof
end

section
/-! PROOF. What each command reports: the tags, RES1, OUT_LEN and the flags of its response, by the kind of its rule, and the
same at the completing edge. -/

namespace Sys2Proof

/-! ### The decoder keeps the width field -/

theorem bigOnly_eq_ok {en : Endian} {i j : Instr} (h : bigOnly en i = .ok j) : j = i := by
  cases en with
  | big => exact (Except.ok.inj h).symm
  | little => cases h

theorem ofOpcode_wsel {op : BitVec 8} {ws : WSel} {pol : Policy} {en : Endian} {i : Instr}
    (h : ofOpcode op ws pol en = .ok i) : i.wsel = ws := by
  unfold ofOpcode at h
  split at h
  case h_21 | h_22 => cases h; rfl -- TOBYTES and FROMBYTES, which take either byte order
  case h_25 => cases h -- no opcode of the table
  all_goals rw [bigOnly_eq_ok h]; rfl

theorem decode_wsel {w : CmdWord} {i : Instr} (h : decode w = .ok i) : i.wsel = wselField w := by
  unfold decode at h
  split_ifs at h
  split at h
  · cases h
  · exact ofOpcode_wsel h

end Sys2Proof

namespace Sys2Proof.Machine

open Sys2Proof.Claims

/-! ### The comparator in terms of the order of the numbers (R73, R76 to R81) -/

section Compare
variable (a b : Nat)

theorem compareNat_eq_compare : compareNat a b = compare a b := by
  rw [compareNat, Nat.compare_eq_ite_lt]
  obtain h | rfl | h := Nat.lt_trichotomy a b
  · rw [if_pos h, if_pos h]
  · simp
  · rw [if_neg h.not_gt, if_neg h.ne', if_neg h.not_gt, if_pos h]

theorem compareNat_beq_eq : (compareNat a b == .eq) = decide (a = b) := by
  rw [compareNat_eq_compare, Bool.eq_iff_iff, beq_iff_eq, decide_eq_true_iff, Nat.compare_eq_eq]

theorem compareNat_bne_eq : (compareNat a b != .eq) = decide (a ≠ b) := by
  rw [bne, compareNat_beq_eq, decide_not]

theorem compareNat_beq_lt : (compareNat a b == .lt) = decide (a < b) := by
  rw [compareNat_eq_compare, Bool.eq_iff_iff, beq_iff_eq, decide_eq_true_iff, Nat.compare_eq_lt]

theorem compareNat_bne_lt : (compareNat a b != .lt) = decide (b ≤ a) := by
  rw [bne, compareNat_beq_lt, ← decide_not, decide_eq_decide, Nat.not_lt]

theorem compareNat_beq_gt : (compareNat a b == .gt) = decide (b < a) := by
  rw [compareNat_eq_compare, Bool.eq_iff_iff, beq_iff_eq, decide_eq_true_iff, Nat.compare_eq_gt]

theorem compareNat_bne_gt : (compareNat a b != .gt) = decide (a ≤ b) := by
  rw [bne, compareNat_beq_gt, ← decide_not, decide_eq_decide, Nat.not_lt]

theorem ordCode_compareNat :
    ordCode (compareNat a b) = if a < b then 0b01#2 else if a = b then 0b10#2 else 0b11#2 := by
  unfold compareNat
  split_ifs <;> rfl

end Compare

/-! ### What a response reports of its command -/

/-- STATUS.ORD of a command whose operands pass the checks (R26). -/
def ordOf (i : Instr) (s : State) : BitVec 2 :=
  (relationOf i).elim 0 fun _ => ordCode (compareNat (valA s) (valB s))

/-- STATUS.PRED of a command whose operands pass the checks (R27). -/
def predOf (i : Instr) (s : State) : Bool := (relationOf i).elim false fun rel => rel (valA s) (valB s)

/-- The response has the tags, RES1, OUT_LEN and flags of the command `i` at width `W` on the operands of `s`, whether or not
the command's own rule raised an error (R21 to R27). -/
structure Reports (i : Instr) (W : Nat) (s : State) (r : Response) : Prop where
  tag0 : r.res0.wsel = i.wsel
  tag1 : r.res1.wsel = i.wsel
  res1Zero : (∀ ws pol, i ≠ .divrem ws pol) → r.res1 = ⟨i.wsel, 0⟩
  outEmpty : writesOut i = false → r.outLen = 0
  status : ∃ err, r.status = statusWord err (outOfRange i W s) (ordOf i s) (predOf i s) ∧
    (outOfRange i W s = true → i.policy = .checked → err ≠ 0)

section Kinds
variable {i : Instr} {W : Nat} {s : State}

/-- An error's response reports the command if the command is no comparator and the error keeps the overflow condition. -/
theorem errorResponse_reports {e : ErrCode} (hrel : relationOf i = none) (hovf : e.setsOvf = outOfRange i W s) :
    Reports i W s (errorResponse i.wsel e) where
  tag0 := rfl
  tag1 := rfl
  res1Zero := fun _ => rfl
  outEmpty := fun _ => rfl
  status := ⟨e.code, by simp [ordOf, predOf, hrel, hovf], fun _ _ => e.code_ne_zero⟩

/-- ADD, SUB, INC, MUL: under every policy the response has the condition in OVF, and under the checked one an error. -/
theorem applyPolicy_reports {pol : Policy} {e : ErrCode} {x : Int} {cond : Bool} {bound : Nat}
    (hrel : relationOf i = none) (hcond : outOfRange i W s = cond) (hpol : i.policy = pol) (he : e.setsOvf = true) :
    Reports i W s (outcomeResponse i.wsel (applyPolicy i.wsel W pol e x cond bound)) := by
  have build : ∀ v, (cond = true → i.policy ≠ .checked) →
      Reports i W s (((Response.default i.wsel).setOvf cond).setRes0 v) := fun v hc =>
    { tag0 := rfl
      tag1 := rfl
      res1Zero := fun _ => rfl
      outEmpty := fun _ => rfl
      status := ⟨0, by simp [ordOf, predOf, hrel, hcond], fun ho hp => absurd hp (hc (hcond ▸ ho))⟩ }
  subst hpol
  unfold applyPolicy
  cases cond with
  | false => exact build _ (by simp)
  | true =>
    cases hp : i.policy with
    | checked => exact errorResponse_reports hrel (he.trans hcond.symm)
    | wrapping => exact build _ (by simp [hp])
    | saturating => exact build _ (by simp [hp])

/-- The seven comparators: ORD, PRED and nothing else. -/
theorem comparison_reports {rel : Nat → Nat → Bool} {p : Bool} (hrel : relationOf i = some rel)
    (hovf : outOfRange i W s = false) (hp : p = rel (valA s) (valB s)) :
    Reports i W s ((Response.default i.wsel).setOrdPred (ordCode (compareNat (valA s) (valB s))) p) where
  tag0 := rfl
  tag1 := rfl
  res1Zero := fun _ => rfl
  outEmpty := fun _ => rfl
  status := ⟨0, by simp [ordOf, predOf, hrel, hovf, hp], by simp [hovf]⟩

/-! The commands without flags. -/

variable (hrel : relationOf i = none) (hovf : outOfRange i W s = false)
include hrel hovf

theorem status_zero_of_unflagged : ∃ err, 0#32 = statusWord err (outOfRange i W s) (ordOf i s) (predOf i s) ∧
    (outOfRange i W s = true → i.policy = .checked → err ≠ 0) :=
  ⟨0, by simpa [ordOf, predOf, hrel, hovf] using statusWord_zero.symm, by simp [hovf]⟩

theorem value_reports (v : Nat) : Reports i W s ((Response.default i.wsel).setRes0 v) where
  tag0 := rfl
  tag1 := rfl
  res1Zero := fun _ => rfl
  outEmpty := fun _ => rfl
  status := status_zero_of_unflagged hrel hovf

theorem output_reports (hout : writesOut i = true) (bytes : List Byte) :
    Reports i W s ((Response.default i.wsel).setOut bytes) where
  tag0 := by simp
  tag1 := by simp
  res1Zero := fun _ => by simp
  outEmpty := by simp [hout]
  status := by simpa using status_zero_of_unflagged hrel hovf

theorem nonzeroDivisor_reports {b : Nat} {r : Response} (hr : Reports i W s r) :
    Reports i W s (outcomeResponse i.wsel (nonzeroDivisor b r)) := by
  unfold nonzeroDivisor
  split
  · exact errorResponse_reports hrel hovf.symm
  · exact hr

theorem decodedValue_reports (v : Nat) : Reports i W s (outcomeResponse i.wsel (decodedValue i.wsel W v)) := by
  unfold decodedValue
  split
  · exact errorResponse_reports hrel hovf.symm
  · exact value_reports hrel hovf v

end Kinds

theorem divrem_reports (ws : WSel) (pol : Policy) (W : Nat) (s : State) (q m : Nat) :
    Reports (.divrem ws pol) W s (((Response.default ws).setRes0 q).setRes1 m) where
  tag0 := rfl
  tag1 := rfl
  res1Zero := fun h => absurd rfl (h ws pol)
  outEmpty := fun _ => rfl
  status := status_zero_of_unflagged rfl rfl

/-- The outcome checks the operands of the command's class and then finishes with a rule that reports the command. -/
def ChecksThenReports (i : Instr) (s : State) (o : Host.Outcome State Fault Refusal) : Prop :=
  ∃ rule : Nat → Except ErrCode Response, o = s.finish i.wsel (checked i.wsel (operandsRead i s) rule) ∧
    ∀ W, Reports i W s (outcomeResponse i.wsel (rule W))

section Classes
variable {i : Instr} {s : State}

theorem binary_reports {rule : Nat → Nat → Nat → Except ErrCode Response} (hc : i.operandClass = .binary)
    (h : ∀ W, Reports i W s (outcomeResponse i.wsel (rule W (valA s) (valB s)))) :
    ChecksThenReports i s (binary i.wsel s rule) :=
  ⟨onBinary rule s.latch, by rw [binary_finish, operandsRead, hc], h⟩

theorem unary_reports {rule : Nat → Nat → Except ErrCode Response} (hc : i.operandClass = .unary)
    (h : ∀ W, Reports i W s (outcomeResponse i.wsel (rule W (valA s)))) :
    ChecksThenReports i s (unary i.wsel s rule) :=
  ⟨onUnary rule s.latch, by rw [unary_finish, operandsRead, hc], h⟩

theorem unaryCount_reports {rule : Nat → Nat → Nat → Except ErrCode Response} (hc : i.operandClass = .unary)
    (h : ∀ W, Reports i W s (outcomeResponse i.wsel (rule W (valA s) (count s)))) :
    ChecksThenReports i s (unaryCount i.wsel s rule) :=
  ⟨onUnaryCount rule s.latch, by rw [unaryCount_finish, operandsRead, hc], h⟩

theorem bytesIn_reports {rule : Nat → Nat → List Byte → Except ErrCode Response} (hc : i.operandClass = .none)
    (h : ∀ W len bytes, Reports i W s (outcomeResponse i.wsel (rule W len bytes))) :
    ChecksThenReports i s (bytesIn i.wsel s rule) :=
  ⟨onBytesIn rule s.latch, by rw [bytesIn_finish, operandsRead, hc], fun W => h W _ _⟩

theorem relational_reports {pred : Ordering → Bool} {rel : Nat → Nat → Bool} (hc : i.operandClass = .binary)
    (hrel : relationOf i = some rel) (hovf : ∀ W, outOfRange i W s = false)
    (hp : pred (compareNat (valA s) (valB s)) = rel (valA s) (valB s)) :
    ChecksThenReports i s (relational i.wsel s pred) :=
  binary_reports hc fun W => comparison_reports hrel (hovf W) hp

end Classes

section Commands
variable (ws : WSel) (pol : Policy) (en : Endian) (s : State)

theorem execAdd_reports : ChecksThenReports (.add ws pol) s (execAdd ws pol s) :=
  binary_reports (i := .add ws pol) rfl fun _ => applyPolicy_reports rfl rfl rfl rfl

theorem execSub_reports : ChecksThenReports (.sub ws pol) s (execSub ws pol s) :=
  binary_reports (i := .sub ws pol) rfl fun _ => applyPolicy_reports rfl rfl rfl rfl

theorem execMul_reports : ChecksThenReports (.mul ws pol) s (execMul ws pol s) :=
  binary_reports (i := .mul ws pol) rfl fun _ => applyPolicy_reports rfl rfl rfl rfl

theorem execInc_reports : ChecksThenReports (.inc ws pol) s (execInc ws pol s) :=
  unary_reports (i := .inc ws pol) rfl fun _ => applyPolicy_reports rfl rfl rfl rfl

theorem execDiv_reports : ChecksThenReports (.div ws pol) s (execDiv ws pol s) :=
  binary_reports (i := .div ws pol) rfl fun _ => nonzeroDivisor_reports rfl rfl (value_reports rfl rfl _)

theorem execRem_reports : ChecksThenReports (.rem ws pol) s (execRem ws pol s) :=
  binary_reports (i := .rem ws pol) rfl fun _ => nonzeroDivisor_reports rfl rfl (value_reports rfl rfl _)

theorem execDivrem_reports : ChecksThenReports (.divrem ws pol) s (execDivrem ws pol s) :=
  binary_reports (i := .divrem ws pol) rfl fun W => nonzeroDivisor_reports rfl rfl (divrem_reports ws pol W s _ _)

theorem execShl_reports : ChecksThenReports (.shl ws pol) s (execShl ws pol s) :=
  unaryCount_reports (i := .shl ws pol) rfl fun _ => value_reports rfl rfl _

theorem execShr_reports : ChecksThenReports (.shr ws pol) s (execShr ws pol s) :=
  unaryCount_reports (i := .shr ws pol) rfl fun _ => value_reports rfl rfl _

theorem execAnd_reports : ChecksThenReports (.and ws pol) s (execAnd ws pol s) :=
  binary_reports (i := .and ws pol) rfl fun _ => value_reports rfl rfl _

theorem execOr_reports : ChecksThenReports (.or ws pol) s (execOr ws pol s) :=
  binary_reports (i := .or ws pol) rfl fun _ => value_reports rfl rfl _

theorem execXor_reports : ChecksThenReports (.xor ws pol) s (execXor ws pol s) :=
  binary_reports (i := .xor ws pol) rfl fun _ => value_reports rfl rfl _

theorem execNot_reports : ChecksThenReports (.not ws pol) s (execNot ws pol s) :=
  unary_reports (i := .not ws pol) rfl fun _ => value_reports rfl rfl _

theorem execCmp_reports : ChecksThenReports (.cmp ws pol) s (execCmp ws pol s) :=
  relational_reports (i := .cmp ws pol) rfl rfl (fun _ => rfl) rfl

theorem execEq_reports : ChecksThenReports (.eq ws pol) s (execEq ws pol s) :=
  relational_reports (i := .eq ws pol) rfl rfl (fun _ => rfl) (compareNat_beq_eq _ _)

theorem execNe_reports : ChecksThenReports (.ne ws pol) s (execNe ws pol s) :=
  relational_reports (i := .ne ws pol) rfl rfl (fun _ => rfl) (compareNat_bne_eq _ _)

theorem execLt_reports : ChecksThenReports (.lt ws pol) s (execLt ws pol s) :=
  relational_reports (i := .lt ws pol) rfl rfl (fun _ => rfl) (compareNat_beq_lt _ _)

theorem execLe_reports : ChecksThenReports (.le ws pol) s (execLe ws pol s) :=
  relational_reports (i := .le ws pol) rfl rfl (fun _ => rfl) (compareNat_bne_gt _ _)

theorem execGt_reports : ChecksThenReports (.gt ws pol) s (execGt ws pol s) :=
  relational_reports (i := .gt ws pol) rfl rfl (fun _ => rfl) (compareNat_beq_gt _ _)

theorem execGe_reports : ChecksThenReports (.ge ws pol) s (execGe ws pol s) :=
  relational_reports (i := .ge ws pol) rfl rfl (fun _ => rfl) (compareNat_bne_lt _ _)

theorem execTobytes_reports : ChecksThenReports (.tobytes ws pol en) s (execTobytes ws pol en s) :=
  unary_reports (i := .tobytes ws pol en) rfl fun _ => output_reports rfl rfl rfl _

theorem execTohex_reports : ChecksThenReports (.tohex ws pol) s (execTohex ws pol s) :=
  unary_reports (i := .tohex ws pol) rfl fun _ => output_reports rfl rfl rfl _

theorem execFrombytes_reports : ChecksThenReports (.frombytes ws pol en) s (execFrombytes ws pol en s) :=
  bytesIn_reports (i := .frombytes ws pol en) rfl fun W len bytes => by
    split
    · exact errorResponse_reports rfl rfl
    · exact decodedValue_reports rfl rfl _

theorem execFromhex_reports : ChecksThenReports (.fromhex ws pol) s (execFromhex ws pol s) :=
  bytesIn_reports (i := .fromhex ws pol) rfl fun W len bytes => by
    split
    · exact errorResponse_reports rfl rfl
    · split
      · exact errorResponse_reports rfl rfl
      · split
        · exact errorResponse_reports rfl rfl
        · exact decodedValue_reports rfl rfl _

end Commands

theorem exec_checksThenReports (i : Instr) (s : State) : ChecksThenReports i s (exec i s) := by
  cases i with
  | add ws pol => exact execAdd_reports ws pol s
  | sub ws pol => exact execSub_reports ws pol s
  | mul ws pol => exact execMul_reports ws pol s
  | inc ws pol => exact execInc_reports ws pol s
  | div ws pol => exact execDiv_reports ws pol s
  | rem ws pol => exact execRem_reports ws pol s
  | divrem ws pol => exact execDivrem_reports ws pol s
  | shl ws pol => exact execShl_reports ws pol s
  | shr ws pol => exact execShr_reports ws pol s
  | and ws pol => exact execAnd_reports ws pol s
  | or ws pol => exact execOr_reports ws pol s
  | xor ws pol => exact execXor_reports ws pol s
  | not ws pol => exact execNot_reports ws pol s
  | cmp ws pol => exact execCmp_reports ws pol s
  | eq ws pol => exact execEq_reports ws pol s
  | ne ws pol => exact execNe_reports ws pol s
  | lt ws pol => exact execLt_reports ws pol s
  | le ws pol => exact execLe_reports ws pol s
  | gt ws pol => exact execGt_reports ws pol s
  | ge ws pol => exact execGe_reports ws pol s
  | tobytes ws pol en => exact execTobytes_reports ws pol en s
  | tohex ws pol => exact execTohex_reports ws pol s
  | frombytes ws pol en => exact execFrombytes_reports ws pol en s
  | fromhex ws pol => exact execFromhex_reports ws pol s

/-! ### What exec completes with, operand checks included -/

theorem ready_iff {i : Instr} {W : Nat} {s : State} :
    Ready i W s ↔ widthOf i.wsel = some W ∧ ∀ x ∈ operandsRead i s, x.wsel = i.wsel ∧ x.nat < 2 ^ W := by
  unfold Ready operandsRead
  cases i.operandClass <;> simp [BinaryReady, UnaryReady, Valid, Tagged.nat]

/-- Either the operands pass the checks and the response reports the command, or they do not and the response is that of an
error with no flag. -/
def ExecAnswers (i : Instr) (s : State) (r : Response) : Prop :=
  (∃ W, Ready i W s ∧ Reports i W s r) ∨
    (∀ W, ¬ Ready i W s) ∧ ∃ e : ErrCode, e.setsOvf = false ∧ r = errorResponse i.wsel e

theorem checked_answers {i : Instr} {s : State} {rule : Nat → Except ErrCode Response}
    (h : ∀ W, Reports i W s (outcomeResponse i.wsel (rule W))) :
    ExecAnswers i s (outcomeResponse i.wsel (checked i.wsel (operandsRead i s) rule)) := by
  unfold ExecAnswers
  simp only [ready_iff]
  obtain ⟨hW, hc⟩ | ⟨W, hW, ⟨⟨x, hx, hm⟩, hc⟩ | ⟨-, ⟨x, hx, hv⟩, hc⟩ | ⟨hok, hc⟩⟩ :=
    checked_cases i.wsel (operandsRead i s) rule <;> rw [hc]
  · exact .inr ⟨by simp [hW], _, rfl, rfl⟩
  · exact .inr ⟨fun _ hr => hm (hr.2 x hx).1, _, rfl, rfl⟩
  · refine .inr ⟨fun W' hr => ?_, _, rfl, rfl⟩
    obtain rfl : W = W' := Option.some.inj (hW.symm.trans hr.1)
    exact Nat.not_lt.2 hv (hr.2 x hx).2
  · exact .inl ⟨W, ⟨hW, hok⟩, h W⟩

theorem exec_answers (i : Instr) (s : State) : ∃ r, r.Wf ∧ exec i s = .next (s.respond r) ∧ ExecAnswers i s r := by
  obtain ⟨r, hr, hs⟩ := exec_responds i s
  obtain ⟨rule, hrule, hrep⟩ := exec_checksThenReports i s
  have hf := hrule.symm.trans hs
  rw [State.finish_eq_complete, State.complete_eq_respond_iff] at hf
  exact ⟨r, hr, hs, hf.2 ▸ checked_answers hrep⟩

/-! ### What the completing edge leaves -/

/-- The completing edge reports a legal command whose operands pass the checks; otherwise its response is that of an error
with no flag, tagged with the word's WSEL. -/
theorem completing_cases {s : State} (h : Completing s) : ∃ r, step s = .next (s.nextPins.respond r) ∧
    ((∃ i W, decode s.latch.cmd = .ok i ∧ Ready i W s ∧ Reports i W s r) ∨
      (∀ i W, decode s.latch.cmd = .ok i → ¬ Ready i W s) ∧
        ∃ e : ErrCode, e.setsOvf = false ∧ r = errorResponse (wselField s.latch.cmd) e) := by
  obtain ⟨r, -, hr⟩ := exists_latchAnswers s.latch
  have hs := hr s rfl
  refine ⟨r, hr.step h, ?_⟩
  cases hd : decode s.latch.cmd with
  | error e =>
    rw [runLatched_of_illegal hd, State.complete_eq_respond_iff] at hs
    exact .inr ⟨by simp, .illegalCommand, rfl, hs.2.symm⟩
  | ok i =>
    obtain ⟨q, -, hq, ha⟩ := exec_answers i s
    rw [runLatched_of_decode hd, hq] at hs
    obtain rfl : q = r := congrArg State.rsp (Host.Outcome.next.inj hs)
    obtain ⟨W, hW, hrep⟩ | ⟨hno, e, he, hqe⟩ := ha
    · exact .inl ⟨i, W, rfl, hW, hrep⟩
    · refine .inr ⟨fun j W hj => ?_, e, he, decode_wsel hd ▸ hqe⟩
      cases hj
      exact hno W

theorem decoded_ready_unique {w : CmdWord} {i j : Instr} {W V : Nat} {s : State} (hi : decode w = .ok i)
    (hj : decode w = .ok j) (hW : Ready i W s) (hV : Ready j V s) : i = j ∧ W = V := by
  obtain rfl : i = j := Except.ok.inj (hi.symm.trans hj)
  exact ⟨rfl, Option.some.inj ((ready_iff.1 hW).1.symm.trans (ready_iff.1 hV).1)⟩

end Sys2Proof.Machine

namespace Sys2Proof

open Sys2Proof.Machine Sys2Proof.Claims

/-- Settles O16: the tags of every report are the command's WSEL, which the decoder takes from the word. -/
theorem resultTagIsTheCommandsWsel : Obligations.ResultTagIsTheCommandsWsel := by
  unfold Obligations.ResultTagIsTheCommandsWsel
  intro s hs
  obtain ⟨r, ht, ⟨i, W, hd, -, hrep⟩ | ⟨-, e, -, rfl⟩⟩ := completing_cases hs
  · exact ⟨_, ht, hrep.tag0.trans (decode_wsel hd), hrep.tag1.trans (decode_wsel hd)⟩
  · exact ⟨_, ht, rfl, rfl⟩

/-- Settles O17, from what every command reports. -/
theorem onlyDivremWritesRes1 : Obligations.OnlyDivremWritesRes1 := by
  unfold Obligations.OnlyDivremWritesRes1
  intro i s hi
  obtain ⟨r, -, ht, ⟨W, -, hrep⟩ | ⟨-, e, -, rfl⟩⟩ := exec_answers i s
  · exact ⟨_, ht, hrep.res1Zero hi⟩
  · exact ⟨_, ht, rfl⟩

/-- Settles O18: the padding is part of a well-formed response, OUT_LEN of what every command reports. -/
theorem onlyTobytesAndTohexWriteOut : Obligations.OnlyTobytesAndTohexWriteOut := by
  unfold Obligations.OnlyTobytesAndTohexWriteOut
  intro i s
  obtain ⟨r, hwf, ht, ha⟩ := exec_answers i s
  refine ⟨_, ht, hwf.outPadded, fun hlen => ?_⟩
  obtain ⟨W, hW, hrep⟩ | ⟨-, e, -, rfl⟩ := ha
  · exact ⟨by by_contra hw; exact hlen (hrep.outEmpty (Bool.eq_false_of_not_eq_true hw)), W, hW⟩
  · exact absurd rfl hlen

/-- Settles O19: OVF of a report is the condition, and no other response sets it. -/
theorem ovfIsTheExactCondition : Obligations.OvfIsTheExactCondition := by
  unfold Obligations.OvfIsTheExactCondition
  intro s hs
  obtain ⟨r, ht, ⟨i, W, hd, hW, hrep⟩ | ⟨hno, e, he, rfl⟩⟩ := completing_cases hs
  · obtain ⟨err, hst, herr⟩ := hrep.status
    have hovf : statusOvf r.status = outOfRange i W s := by simp [hst]
    have hcode : statusErr r.status = err := by simp [hst]
    refine ⟨_, ht, ⟨fun ho => ⟨i, W, hd, hW, hovf.symm.trans ho⟩, ?_⟩, ?_⟩
    · rintro ⟨j, V, hj, hV, ho⟩
      obtain ⟨rfl, rfl⟩ := decoded_ready_unique hd hj hW hV
      exact hovf.trans ho
    · intro j V hj hV ho hp
      obtain ⟨rfl, rfl⟩ := decoded_ready_unique hd hj hW hV
      exact hcode.trans_ne (herr ho hp)
  · have hovf : statusOvf (errorResponse (wselField s.latch.cmd) e).status = false := by simp [he]
    refine ⟨_, ht, ⟨fun ho => absurd (hovf.symm.trans ho) Bool.false_ne_true, ?_⟩, ?_⟩
    · rintro ⟨j, V, hj, hV, -⟩
      exact absurd hV (hno j V hj)
    · exact fun j V hj hV => absurd hV (hno j V hj)

/-- Settles O20: ORD and PRED of a report are the comparator's, and no other response sets them. -/
theorem ordAndPredBelongToTheComparator : Obligations.OrdAndPredBelongToTheComparator := by
  unfold Obligations.OrdAndPredBelongToTheComparator
  intro s hs
  obtain ⟨r, ht, ⟨i, W, hd, hW, hrep⟩ | ⟨hno, e, -, rfl⟩⟩ := completing_cases hs
  · obtain ⟨err, hst, -⟩ := hrep.status
    have hord : statusOrd r.status = ordOf i s := by simp [hst]
    have hpred : statusPred r.status = predOf i s := by simp [hst]
    refine ⟨_, ht, fun j V rel hj hV hrel => ?_, fun hnone => ?_⟩
    · obtain ⟨rfl, rfl⟩ := decoded_ready_unique hd hj hW hV
      exact ⟨hord.trans (by simp [ordOf, hrel, ordCode_compareNat]), hpred.trans (by simp [predOf, hrel])⟩
    · have hrel := hnone i W hd hW
      exact ⟨hord.trans (by simp [ordOf, hrel]), hpred.trans (by simp [predOf, hrel])⟩
  · refine ⟨_, ht, fun j V _ hj hV => absurd hV (hno j V hj), fun _ => ⟨?_, ?_⟩⟩
    · exact statusOrd_statusWord e.code e.setsOvf 0 false
    · exact statusPred_statusWord e.code e.setsOvf 0 false

end Sys2Proof
end

section
/-! PROOF. The command word and the operands of a command: the decoder accepts exactly the encodings of well-formed commands
(R55 to R63), a rejected word and a failed operand check end in their error (R63 to R65), and what a command does not read
does not reach its response (R19, R61). -/

namespace Sys2Proof

open Sys2Proof.Claims

/-! ### The codes of the fields (R57, R58, R62) -/

theorem policyOf_eq_some_iff {c : BitVec 2} {pol : Policy} : policyOf c = some pol ↔ c = pol.code := by
  revert c; cases pol <;> decide

theorem policyOf_eq_none_iff {c : BitVec 2} : policyOf c = none ↔ c = 3#2 := by revert c; decide

theorem endianOf_eq_iff {c : BitVec 1} {en : Endian} : endianOf c = en ↔ c = en.code := by
  revert c; cases en <;> decide

theorem bigOnly_eq_ok_iff {en : Endian} {i j : Instr} : bigOnly en i = .ok j ↔ en = .big ∧ i = j := by
  cases en <;> simp [bigOnly]

theorem bigOnly_rejects_iff {en : Endian} {i : Instr} : (∃ e, bigOnly en i = .error e) ↔ en = .little := by
  cases en <;> simp [bigOnly]

/-- A command's own fields pick out its row of the opcode map. -/
theorem ofOpcode_fields (i : Instr) : ofOpcode i.opcode i.wsel i.policy i.endian = .ok i := by cases i <;> rfl

/-- A row of the opcode map gives a command with the row's fields. -/
theorem fields_of_ofOpcode {op : BitVec 8} {ws : WSel} {pol : Policy} {en : Endian} {i : Instr}
    (h : ofOpcode op ws pol en = .ok i) : i.opcode = op ∧ i.wsel = ws ∧ i.policy = pol ∧ i.endian = en := by
  unfold ofOpcode at h
  split at h
  case h_21 | h_22 => cases h; exact ⟨rfl, rfl, rfl, rfl⟩ -- TOBYTES and FROMBYTES, which take either byte order
  case h_25 => cases h -- no opcode of the table
  all_goals
    obtain ⟨rfl, rfl⟩ := bigOnly_eq_ok_iff.1 h
    exact ⟨rfl, rfl, rfl, rfl⟩

theorem ofOpcode_eq_ok_iff {op : BitVec 8} {ws : WSel} {pol : Policy} {en : Endian} {i : Instr} :
    ofOpcode op ws pol en = .ok i ↔ i.opcode = op ∧ i.wsel = ws ∧ i.policy = pol ∧ i.endian = en := by
  refine ⟨fields_of_ofOpcode, ?_⟩
  rintro ⟨rfl, rfl, rfl, rfl⟩
  exact ofOpcode_fields i

/-- The opcodes of R62. -/
def opcodes : List Nat :=
  [0x01, 0x02, 0x03, 0x04, 0x05, 0x06, 0x07, 0x10, 0x11, 0x20, 0x21, 0x22, 0x23,
    0x30, 0x31, 0x32, 0x33, 0x34, 0x35, 0x36, 0x40, 0x41, 0x42, 0x43]

/-- The opcode map has no other row, and allows ENDIAN = 1 in the byte codec only. -/
theorem ofOpcode_rejects_iff {op : BitVec 8} {ws : WSel} {pol : Policy} {en : Endian} :
    (∃ e, ofOpcode op ws pol en = .error e) ↔
      op.toNat ∉ opcodes ∨ en = .little ∧ op.toNat ≠ 0x40 ∧ op.toNat ≠ 0x41 := by
  unfold ofOpcode
  split
  case h_21 | h_22 => simp [opcodes] -- TOBYTES and FROMBYTES
  case h_25 => -- no opcode of the table
    simp only [imp_false, BitVec.toNat_eq, BitVec.toNat_ofNat] at *
    simp [opcodes, *]
  all_goals simp [bigOnly_rejects_iff, opcodes]

/-! ### The word and its fields (R55, R59) -/

section Fields
variable (w : CmdWord)

/-- The five fields are all of the word. -/
theorem append_fields : rsvdField w ++ endianField w ++ policyField w ++ wselField w ++ opcodeField w = w := by
  unfold rsvdField endianField policyField wselField opcodeField
  iterate 4 rw [BitVec.extractLsb'_append_extractLsb'_eq_extractLsb' (by rfl)]
  exact BitVec.extractLsb'_eq_self

theorem opcodeField_toNat : (opcodeField w).toNat = w.toNat % 2 ^ 8 := by simp [opcodeField]

theorem wselField_toNat : (wselField w).toNat = w.toNat / 2 ^ 8 % 2 ^ 3 := by
  simp [wselField, Nat.shiftRight_eq_div_pow]

theorem policyField_toNat : (policyField w).toNat = w.toNat / 2 ^ 11 % 2 ^ 2 := by
  simp [policyField, Nat.shiftRight_eq_div_pow]

theorem endianField_toNat : (endianField w).toNat = w.toNat / 2 ^ 13 % 2 := by
  simp [endianField, Nat.shiftRight_eq_div_pow]

/-- RSVD reaches to the top of the word, so no bits above it are cut off. -/
theorem rsvdField_toNat : (rsvdField w).toNat = w.toNat / 2 ^ 14 := by
  have := w.isLt
  rw [rsvdField, BitVec.extractLsb'_toNat, Nat.shiftRight_eq_div_pow]
  omega

end Fields

theorem encode_eq_iff {w : CmdWord} {i : Instr} :
    encode i = w ↔ opcodeField w = i.opcode ∧ wselField w = i.wsel ∧ policyField w = i.policy.code ∧
      endianField w = i.endian.code ∧ rsvdField w = 0#18 := by
  constructor
  · rintro rfl
    exact Laws.EncodedFields.statement_all i
  · rintro ⟨hop, hws, hpol, hen, hr⟩
    rw [← append_fields w, hop, hws, hpol, hen, hr, encode]

/-! ### The words the decoder accepts, and those it rejects (R63) -/

/-- The decoder's tests, all passed. -/
theorem decode_eq_ok_iff_tests {w : CmdWord} {i : Instr} :
    decode w = .ok i ↔ rsvdField w = 0#18 ∧ (widthOf (wselField w)).isSome = true ∧
      ∃ pol, policyOf (policyField w) = some pol ∧
        ofOpcode (opcodeField w) (wselField w) pol (endianOf (endianField w)) = .ok i := by
  unfold decode
  by_cases hr : rsvdField w = 0#18
  · cases widthOf (wselField w) with
    | none => simp [hr]
    | some W => cases policyOf (policyField w) <;> simp [hr]
  · simp [hr]

/-- The decoder accepts exactly the encodings of the commands of legal width. -/
theorem decode_eq_ok_iff {w : CmdWord} {i : Instr} : decode w = .ok i ↔ i.wf = true ∧ encode i = w := by
  rw [decode_eq_ok_iff_tests, encode_eq_iff, Instr.wf]
  constructor
  · rintro ⟨hr, hW, pol, hpol, hi⟩
    obtain ⟨hop, hws, rfl, hen⟩ := ofOpcode_eq_ok_iff.1 hi
    exact ⟨hws ▸ hW, hop.symm, hws.symm, policyOf_eq_some_iff.1 hpol, endianOf_eq_iff.1 hen.symm, hr⟩
  · rintro ⟨hW, hop, hws, hpol, hen, hr⟩
    refine ⟨hr, hws ▸ hW, i.policy, policyOf_eq_some_iff.2 hpol, ?_⟩
    exact ofOpcode_eq_ok_iff.2 ⟨hop.symm, hws.symm, rfl, (endianOf_eq_iff.2 hen).symm⟩

/-- The decoder's tests, one of them failed, in the order R63 lists them. -/
theorem decode_rejects_iff {w : CmdWord} :
    (∃ e, decode w = .error e) ↔
      (opcodeField w).toNat ∉ opcodes ∨ widthOf (wselField w) = none ∨ policyOf (policyField w) = none ∨
      rsvdField w ≠ 0#18 ∨
      endianOf (endianField w) = .little ∧ (opcodeField w).toNat ≠ 0x40 ∧ (opcodeField w).toNat ≠ 0x41 := by
  unfold decode
  by_cases hr : rsvdField w = 0#18
  · cases hW : widthOf (wselField w) with
    | none => simp [hr]
    | some W =>
      cases hp : policyOf (policyField w) with
      | none => simp [hr]
      | some pol => simpa [hr] using ofOpcode_rejects_iff
  · simp [hr]

theorem illegalWord_iff {w : CmdWord} : IllegalWord w ↔ ∃ e, decode w = .error e := by
  rw [decode_rejects_iff, widthOf_none_iff, policyOf_eq_none_iff, endianOf_eq_iff, ne_eq (rsvdField w)]
  rw [BitVec.toNat_eq, BitVec.toNat_eq, BitVec.toNat_eq, BitVec.toNat_eq, opcodeField_toNat, wselField_toNat,
    policyField_toNat, endianField_toNat, rsvdField_toNat]
  rfl

end Sys2Proof

namespace Sys2Proof.Machine

open Sys2Proof.Claims

/-! ### Errors before the command's own rule (R63 to R65) -/

theorem completesWith_error (s : State) (ws : WSel) (e : ErrCode) :
    CompletesWith (.next (s.respond (errorResponse ws e))) s (reply ws 0 0 (statusWord e.code e.setsOvf 0 false)) :=
  ⟨_, rfl, rfl, rfl, rfl, rfl, rfl⟩

theorem showsResponse_error (s : State) (ws : WSel) (e : ErrCode) :
    ShowsResponse (.next (s.respond (errorResponse ws e))) (reply ws 0 0 (statusWord e.code e.setsOvf 0 false)) :=
  ⟨_, rfl, rfl, rfl, rfl⟩

section Checks
variable {i : Instr} {W : Nat} {s : State}

theorem exec_of_reserved (h : widthOf i.wsel = none) :
    exec i s = .next (s.respond (errorResponse i.wsel .illegalCommand)) := by
  obtain ⟨rule, hrule⟩ := exec_finish i
  rw [hrule, checked_of_reserved h, State.finish_error]

theorem exec_of_mismatch (h : widthOf i.wsel = some W) (hm : ∃ x ∈ operandsRead i s, x.wsel ≠ i.wsel) :
    exec i s = .next (s.respond (errorResponse i.wsel .widthMismatch)) := by
  obtain ⟨rule, hrule⟩ := exec_finish i
  rw [hrule, checked_of_mismatch h hm, State.finish_error]

theorem exec_of_invalid (h : widthOf i.wsel = some W) (ht : ∀ x ∈ operandsRead i s, x.wsel = i.wsel)
    (hv : ∃ x ∈ operandsRead i s, 2 ^ W ≤ x.nat) :
    exec i s = .next (s.respond (errorResponse i.wsel .invalidOperand)) := by
  obtain ⟨rule, hrule⟩ := exec_finish i
  rw [hrule, checked_of_invalid h ht hv, State.finish_error]

end Checks

theorem operandsRead_nextPins (i : Instr) (s : State) : operandsRead i s.nextPins = operandsRead i s := by
  unfold operandsRead; rw [State.nextPins_latch]

theorem step_of_decode {s : State} {i : Instr} (h : Completing s) (hd : decode s.latch.cmd = .ok i) :
    step s = exec i s.nextPins := by
  rw [step_of_completing h, runLatched_of_decode (by rwa [State.nextPins_latch])]

theorem step_of_illegal {s : State} (h : Completing s) (hw : IllegalWord s.latch.cmd) :
    step s = .next (s.nextPins.respond (errorResponse (wselField s.latch.cmd) .illegalCommand)) := by
  obtain ⟨e, he⟩ := illegalWord_iff.1 hw
  rw [step_of_completing h, runLatched_of_illegal (by rwa [State.nextPins_latch]), State.nextPins_latch,
    State.complete_error]

/-! ### What a command reads (R19, R61) -/

theorem operandsRead_congr {i : Instr} {s t : State} (h : AgreeOnRead i s.latch t.latch) :
    operandsRead i s = operandsRead i t := by
  obtain ⟨ha, hb, -, -⟩ := h
  unfold operandsRead
  cases hc : i.operandClass with
  | binary => simp [ha (by simp [hc]), hb hc]
  | unary => simp [ha (by simp [hc])]
  | none => rfl

/-- The meaning checks the operands of the command and finishes with a rule that looks at no more of LATCH than the command
reads. -/
def Reads (i : Instr) (meaning : State → Host.Outcome State Fault Refusal) : Prop :=
  ∃ rule : Ports → Nat → Except ErrCode Response,
    (∀ s, meaning s = s.finish i.wsel (checked i.wsel (operandsRead i s) (rule s.latch))) ∧
    ∀ p q, AgreeOnRead i p q → rule p = rule q

section Classes
variable {i : Instr} {meaning : State → Host.Outcome State Fault Refusal}

theorem binary_reads {rule : Nat → Nat → Nat → Except ErrCode Response} (hc : i.operandClass = .binary)
    (hm : ∀ s, meaning s = binary i.wsel s rule) : Reads i meaning := by
  refine ⟨onBinary rule, fun s => by rw [hm, binary_finish, operandsRead, hc], fun p q ⟨ha, hb, _⟩ => ?_⟩
  unfold onBinary
  rw [ha (by simp [hc]), hb hc]

theorem unary_reads {rule : Nat → Nat → Except ErrCode Response} (hc : i.operandClass = .unary)
    (hm : ∀ s, meaning s = unary i.wsel s rule) : Reads i meaning := by
  refine ⟨onUnary rule, fun s => by rw [hm, unary_finish, operandsRead, hc], fun p q ⟨ha, _⟩ => ?_⟩
  unfold onUnary
  rw [ha (by simp [hc])]

theorem unaryCount_reads {rule : Nat → Nat → Nat → Except ErrCode Response} (hc : i.operandClass = .unary)
    (hk : readsCount i = true) (hm : ∀ s, meaning s = unaryCount i.wsel s rule) : Reads i meaning := by
  refine ⟨onUnaryCount rule, fun s => by rw [hm, unaryCount_finish, operandsRead, hc],
    fun p q ⟨ha, _, hk', _⟩ => ?_⟩
  unfold onUnaryCount
  rw [ha (by simp [hc]), hk' hk]

/-- A decoder's rule has to be one that uses the leading `in_len` bytes only. -/
theorem bytesIn_reads {rule : Nat → Nat → List Byte → Except ErrCode Response} (hc : i.operandClass = .none)
    (hm : ∀ s, meaning s = bytesIn i.wsel s rule)
    (h : ∀ W len bs bs', bs.take len = bs'.take len → rule W len bs = rule W len bs') : Reads i meaning := by
  refine ⟨onBytesIn rule, fun s => by rw [hm, bytesIn_finish, operandsRead, hc], fun p q ⟨_, _, _, hin⟩ => ?_⟩
  obtain ⟨hlen, hbytes⟩ := hin hc
  funext W
  unfold onBytesIn
  rw [← hlen]
  refine h W _ _ _ (List.ext_getElem? fun j => ?_)
  by_cases hj : j < p.inLen.toNat
  · simpa [hj] using hbytes j hj
  · simp [hj]

theorem relational_reads {pred : Ordering → Bool} (hc : i.operandClass = .binary)
    (hm : ∀ s, meaning s = relational i.wsel s pred) : Reads i meaning :=
  binary_reads hc hm

end Classes

section Decoders
variable (ws : WSel) (pol : Policy) (en : Endian)

theorem execFrombytes_reads : Reads (.frombytes ws pol en) (execFrombytes ws pol en) :=
  bytesIn_reads rfl (fun _ => rfl) fun W len bs bs' h => by
    by_cases hl : len = nbytes W
    · rw [← hl, h]
    · rw [if_pos hl, if_pos hl]

theorem execFromhex_reads : Reads (.fromhex ws pol) (execFromhex ws pol) :=
  bytesIn_reads rfl (fun _ => rfl) fun W len bs bs' h => by
    by_cases hl : len = 2 * nbytes W
    · rw [← hl, h]
    · rw [if_pos hl, if_pos hl]

end Decoders

theorem exec_reads (i : Instr) : Reads i (exec i) := by
  cases i with
  | add ws pol => exact binary_reads rfl (exec_add ws pol)
  | sub ws pol => exact binary_reads rfl (exec_sub ws pol)
  | mul ws pol => exact binary_reads rfl (exec_mul ws pol)
  | div ws pol => exact binary_reads rfl (exec_div ws pol)
  | rem ws pol => exact binary_reads rfl (exec_rem ws pol)
  | divrem ws pol => exact binary_reads rfl (exec_divrem ws pol)
  | inc ws pol => exact unary_reads rfl (exec_inc ws pol)
  | shl ws pol => exact unaryCount_reads rfl rfl (exec_shl ws pol)
  | shr ws pol => exact unaryCount_reads rfl rfl (exec_shr ws pol)
  | and ws pol => exact binary_reads rfl (exec_and ws pol)
  | or ws pol => exact binary_reads rfl (exec_or ws pol)
  | xor ws pol => exact binary_reads rfl (exec_xor ws pol)
  | not ws pol => exact unary_reads rfl (exec_not ws pol)
  | cmp ws pol => exact relational_reads rfl (exec_cmp ws pol)
  | eq ws pol => exact relational_reads rfl (exec_eq ws pol)
  | ne ws pol => exact relational_reads rfl (exec_ne ws pol)
  | lt ws pol => exact relational_reads rfl (exec_lt ws pol)
  | le ws pol => exact relational_reads rfl (exec_le ws pol)
  | gt ws pol => exact relational_reads rfl (exec_gt ws pol)
  | ge ws pol => exact relational_reads rfl (exec_ge ws pol)
  | tobytes ws pol en => exact unary_reads rfl (exec_tobytes ws pol en)
  | frombytes ws pol en => exact execFrombytes_reads ws pol en
  | tohex ws pol => exact unary_reads rfl (exec_tohex ws pol)
  | fromhex ws pol => exact execFromhex_reads ws pol

/-- States that agree on what the command reads complete with one response. -/
theorem exec_congr {i : Instr} {s t : State} (h : AgreeOnRead i s.latch t.latch) :
    ∃ r, exec i s = .next (s.respond r) ∧ exec i t = .next (t.respond r) := by
  obtain ⟨rule, hfinish, hrule⟩ := exec_reads i
  obtain ⟨r, -, hs⟩ := exec_responds i s
  refine ⟨r, hs, ?_⟩
  rw [hfinish, State.finish_eq_complete, State.complete_eq_respond_iff] at hs ⊢
  rwa [← operandsRead_congr h, ← hrule _ _ h]

end Sys2Proof.Machine

namespace Sys2Proof

open Sys2Proof.Machine Sys2Proof.Claims

/-- Settles O24: the encoding of a well-formed command is one of the words the decoder accepts. -/
theorem decodeOfEncode : Obligations.DecodeOfEncode := by
  unfold Obligations.DecodeOfEncode
  exact fun i hi => decode_eq_ok_iff.2 ⟨hi, rfl⟩

/-- Settles O25: the decoder accepts no other word. -/
theorem encodeOfDecode : Obligations.EncodeOfDecode := by
  unfold Obligations.EncodeOfDecode
  exact fun w i h => decode_eq_ok_iff.1 h

/-- Settles O8: the fields, as numbers, are what R63 tests, and a rejected word completes before any operand is read. -/
theorem illegalWordsFailWithIllegalCommand : Obligations.IllegalWordsFailWithIllegalCommand := by
  unfold Obligations.IllegalWordsFailWithIllegalCommand
  refine ⟨fun w => illegalWord_iff, fun s hs hw => ?_⟩
  rw [step_of_illegal hs hw]
  exact showsResponse_error _ _ .illegalCommand

/-- Settles O9: the width is looked up before the operands are checked. -/
theorem reservedWidthCodeIsIllegal : Obligations.ReservedWidthCodeIsIllegal := by
  unfold Obligations.ReservedWidthCodeIsIllegal
  intro i s h
  rw [exec_of_reserved h]
  exact completesWith_error s i.wsel .illegalCommand

/-- Settles O21: each command's rule is a function of what the command reads. -/
theorem unreadPortsAreIgnored : Obligations.UnreadPortsAreIgnored := by
  unfold Obligations.UnreadPortsAreIgnored
  intro i s p h
  obtain ⟨r, hs, ht⟩ := exec_congr (t := { s with latch := p }) h
  exact ⟨_, _, hs, ht, rfl⟩

/-- Settles O22: both checks stand before the command's rule, the one of the tags first. -/
theorem operandChecksComeBeforeTheCommand : Obligations.OperandChecksComeBeforeTheCommand := by
  unfold Obligations.OperandChecksComeBeforeTheCommand
  intro s i W xs hs hd hW hxs
  obtain rfl : xs = operandsRead i s.nextPins := hxs.trans (operandsRead_nextPins i s).symm
  rw [step_of_decode hs hd]
  refine ⟨fun hm => ?_, fun ht hv => ?_⟩
  · rw [exec_of_mismatch hW hm]
    exact showsResponse_error _ _ .widthMismatch
  · rw [exec_of_invalid hW ht hv]
    exact showsResponse_error _ _ .invalidOperand

/-- Settles O7: the completing edge is an equation of `step`, and LATCH does not move with the wires. -/
theorem stepRunsTheDecodedCommand : Obligations.StepRunsTheDecodedCommand := by
  unfold Obligations.StepRunsTheDecodedCommand
  exact fun s i hr hb hc hd => step_of_decode ⟨hr, hb, hc⟩ hd

/-- Settles O23, by evaluating the tables. -/
theorem widthCodesAndClasses : Obligations.WidthCodesAndClasses := by
  unfold Obligations.WidthCodesAndClasses
  decide

/-- Settles O26, by evaluating the decoder on the eleven words. -/
theorem wordsOfTheSpecDecode : Obligations.WordsOfTheSpecDecode := by
  unfold Obligations.WordsOfTheSpecDecode
  decide

end Sys2Proof
end

section
/-! PROOF. What every command's rule says besides its result, its word and its operand errors, said once for all commands
(R55, R64, R65); the comparator commands; and the scan from the most significant digit, on limbs and on bytes, against the
order of the numbers (R73 to R81). -/

namespace Sys2Proof

open Sys2Proof.Machine Sys2Proof.Claims

/-! ### Every command's word and operand errors (R55, R64, R65) -/

theorem policyNum_eq_code (pol : Policy) : policyNum pol = pol.code.toNat := by cases pol <;> rfl

theorem endianNum_eq_code (en : Endian) : endianNum en = en.code.toNat := by cases en <;> rfl

/-- The fields, each below its bound, do not run into one another. -/
theorem encode_eq_word (i : Instr) : encode i = word i.opcode.toNat i.wsel i.policy (endianNum i.endian) := by
  have hop := i.opcode.isLt
  have hws := i.wsel.isLt
  have hpol := i.policy.code.isLt
  have hen := i.endian.code.isLt
  have hw : (word i.opcode.toNat i.wsel i.policy (endianNum i.endian)).toNat = i.opcode.toNat + 2 ^ 8 * i.wsel.toNat +
      2 ^ 11 * i.policy.code.toNat + 2 ^ 13 * i.endian.code.toNat := by
    rw [word, policyNum_eq_code, endianNum_eq_code, BitVec.toNat_ofNat]
    omega
  rw [encode_eq_iff]
  refine ⟨?_, ?_, ?_, ?_, ?_⟩ <;> apply BitVec.eq_of_toNat_eq
  · rw [opcodeField_toNat, hw]; omega
  · rw [wselField_toNat, hw]; omega
  · rw [policyField_toNat, hw]; omega
  · rw [endianField_toNat, hw]; omega
  · rw [rsvdField_toNat, hw, BitVec.toNat_ofNat]; omega

/-- Each rule names its command's word by the fields of R55; the decoder gives the command back. -/
theorem encoded_word (i : Instr) : Encoded i (word i.opcode.toNat i.wsel i.policy (endianNum i.endian)) :=
  fun hwf => decode_eq_ok_iff.2 ⟨hwf, encode_eq_word i⟩

/-- The operands a command reads raise the errors of R64 and R65, and no command looks at them before. -/
theorem operandErrors_operandsRead (i : Instr) (s : State) : OperandErrors i (operandsRead i s) s := by
  intro W hW
  refine ⟨fun hm => ?_, fun ht hv => ?_⟩
  · rw [exec_of_mismatch hW hm]
    exact completesWith_error s i.wsel .widthMismatch
  · rw [exec_of_invalid hW ht hv]
    exact completesWith_error s i.wsel .invalidOperand

end Sys2Proof

namespace Sys2Proof.Machine

open Sys2Proof.Claims

/-! ### The relational commands (R75 to R81) -/

section Relational
variable {ws : WSel} {W : Nat} {s : State}

/-- The response of a relational command whose operands pass the checks. -/
theorem relational_of_ready {pred : Ordering → Bool} (h : BinaryReady ws W s) :
    relational ws s pred = .next (s.respond ((Response.default ws).setOrdPred
      (ordCode (compareNat (valA s) (valB s))) (pred (compareNat (valA s) (valB s))))) := by
  obtain ⟨hW, ha, hb⟩ := h
  rw [relational, binary_of_valid hW ha hb]
  exact State.finish_ok (by simp)

/-- STATUS packed from ORD and PRED is the word the rules write out (R24, R26, R27). -/
theorem statusWord_compareNat (a b : Nat) (p : Bool) :
    statusWord 0 false (ordCode (compareNat a b)) p = compareStatus a b p := by
  rw [ordCode_compareNat, compareStatus]
  cases p
  all_goals
    simp only [Bool.false_eq_true, if_true, if_false]
    split_ifs <;> rfl -- less, equal and greater

/-- One rule for all relational commands: what is left to each is that its predicate on the three-way result is its relation
on the numbers. -/
theorem relationalRule {i : Instr} {rel : Nat → Nat → Bool} {pred : Ordering → Bool} (hc : i.operandClass = .binary)
    (hen : i.endian = .big) (hexec : exec i s = relational i.wsel s pred)
    (hpred : ∀ a b, pred (compareNat a b) = rel a b) : RelationalRule i i.opcode.toNat rel s := by
  refine ⟨?_, ?_, fun W hready => ?_⟩
  · have hword := encoded_word i
    rwa [hen] at hword
  · have herr := operandErrors_operandsRead i s
    rwa [operandsRead, hc] at herr
  · rw [hexec, relational_of_ready hready, hpred, ← statusWord_compareNat]
    exact ⟨_, rfl, rfl, rfl, rfl, rfl, rfl⟩

end Relational

/-! ### Comparing by the most significant digit first (R73) -/

theorem compareNat_of_lt {a b : Nat} (h : a < b) : compareNat a b = .lt := by
  rw [compareNat_eq_compare, Nat.compare_eq_lt]; exact h

theorem compareNat_of_gt {a b : Nat} (h : b < a) : compareNat a b = .gt := by
  rw [compareNat_eq_compare, Nat.compare_eq_gt]; exact h

theorem compareNat_self (a : Nat) : compareNat a a = .eq := by
  rw [compareNat_eq_compare, Nat.compare_eq_eq]

theorem compareNat_add_right (a b c : Nat) : compareNat (a + c) (b + c) = compareNat a b := by
  simp only [compareNat, Nat.add_lt_add_iff_right, Nat.add_right_cancel_iff]

/-- The quotients decide, and the remainders where the quotients are equal. -/
theorem compareNat_divMod (m a b : Nat) :
    compareNat a b = (compareNat (a / m) (b / m)).then (compareNat (a % m) (b % m)) := by
  obtain h | h | h := Nat.lt_trichotomy (a / m) (b / m)
  · rw [compareNat_of_lt h, compareNat_of_lt (Nat.lt_of_div_lt_div h), Ordering.lt_then]
  · calc compareNat a b
        = compareNat (a % m + m * (b / m)) (b % m + m * (b / m)) := by rw [← h, Nat.mod_add_div, h, Nat.mod_add_div]
      _ = (compareNat (a / m) (b / m)).then (compareNat (a % m) (b % m)) := by
          rw [compareNat_add_right, h, compareNat_self, Ordering.eq_then]
  · rw [compareNat_of_gt h, compareNat_of_gt (Nat.lt_of_div_lt_div h), Ordering.gt_then]

namespace Reference

@[simp] theorem scanTop_nil : scanTop [] [] = .eq := rfl

@[simp] theorem scanTop_cons (x y : Nat) (xs ys : List Nat) :
    scanTop (x :: xs) (y :: ys) = (compareNat x y).then (scanTop xs ys) := by
  obtain h | rfl | h := Nat.lt_trichotomy x y
  · rw [scanTop, if_pos h, compareNat_of_lt h, Ordering.lt_then]
  · rw [scanTop, if_neg (Nat.lt_irrefl x), if_neg (Nat.lt_irrefl x), compareNat_self, Ordering.eq_then]
  · rw [scanTop, if_neg h.not_gt, if_pos h, compareNat_of_gt h, Ordering.gt_then]

theorem scanTop_self (xs : List Nat) : scanTop xs xs = .eq := by
  induction xs with
  | nil => rfl
  | cons x xs ih => rw [scanTop_cons, compareNat_self, ih, Ordering.eq_then]

/-- Equal tails after parts of one length do not change the order. -/
theorem scanTop_append_right {xs ys : List Nat} (zs : List Nat) (h : xs.length = ys.length) :
    scanTop (xs ++ zs) (ys ++ zs) = scanTop xs ys := by
  induction xs generalizing ys with
  | nil =>
    obtain rfl := List.length_eq_zero_iff.1 h.symm
    exact scanTop_self zs
  | cons x xs ih =>
    obtain ⟨y, ys, rfl⟩ := List.exists_cons_of_length_eq_add_one h.symm
    rw [List.cons_append, List.cons_append, scanTop_cons, scanTop_cons, ih (Nat.succ.inj h)]

theorem reverse_limbs_succ (lb n v : Nat) : (limbs lb (n + 1) v).reverse = limb lb v n :: (limbs lb n v).reverse := by
  rw [limbs, limbs, List.range_succ, List.map_append, List.reverse_append]
  rfl

/-- The scan of n limbs compares what n limbs hold. -/
theorem compareLimbs_eq_mod (lb n a b : Nat) :
    compareLimbs lb n a b = compareNat (a % 2 ^ (lb * n)) (b % 2 ^ (lb * n)) := by
  unfold compareLimbs
  induction n with
  | zero => simp [limbs, Nat.mod_one, compareNat_self]
  | succ n ih =>
    have hdiv : ∀ v, v % 2 ^ (lb * (n + 1)) / 2 ^ (lb * n) = limb lb v n := fun v => by
      rw [Nat.mul_succ, Nat.pow_add, Nat.mod_mul_right_div_self, limb]
    have hmod : ∀ v, v % 2 ^ (lb * (n + 1)) % 2 ^ (lb * n) = v % 2 ^ (lb * n) := fun v => by
      rw [Nat.mul_succ, Nat.pow_add, Nat.mod_mul_right_mod]
    rw [reverse_limbs_succ, reverse_limbs_succ, scanTop_cons, ih,
      compareNat_divMod (2 ^ (lb * n)) (a % 2 ^ (lb * (n + 1))), hdiv, hdiv, hmod, hmod]

/-- Numbers that n limbs hold whole are compared as numbers. -/
theorem compareLimbs_of_lt {lb n a b : Nat} (ha : a < 2 ^ (lb * n)) (hb : b < 2 ^ (lb * n)) :
    compareLimbs lb n a b = compareNat a b := by
  rw [compareLimbs_eq_mod, Nat.mod_eq_of_lt ha, Nat.mod_eq_of_lt hb]

theorem Fits.width_le {lb L W : Nat} (h : Fits lb L W) : W ≤ lb * L := by
  obtain ⟨-, rfl | ⟨rfl, hlt⟩⟩ := h
  · exact Nat.le_refl _
  · rw [Nat.mul_one]; exact hlt.le

end Reference

/-! ### The bytes TOBYTES writes (R74, R108) -/

/-- The response of TOBYTES on an operand that passes the checks (R108). -/
theorem execTobytes_of_ready {ws : WSel} {W : Nat} {s : State} (pol : Policy) (en : Endian) (h : UnaryReady ws W s) :
    execTobytes ws pol en s = .next (s.respond ((Response.default ws).setOut (bytesOf en (valA s) (nbytes W)))) := by
  obtain ⟨hW, ha⟩ := h
  rw [execTobytes, unary_of_valid hW ha]
  exact State.finish_ok (by simp [statusErr])

/-- A buffer is the bytes it was built from and zeros after them. -/
theorem bufferOf_toList {bytes : List Byte} (h : bytes.length ≤ bufBytes) :
    (bufferOf bytes).toList = bytes ++ List.replicate (bufBytes - bytes.length) 0 := by
  apply List.ext_getElem
  · simp; omega
  · intro i h1 h2
    by_cases hi : i < bytes.length
    · simp [hi]
    · simp [List.getElem_append_right (Nat.le_of_not_lt hi), Nat.le_of_not_lt hi]

/-- The bytes of a number are its limbs of 8 bits. -/
theorem map_toNat_bytesLE (v n : Nat) : (bytesLE v n).map BitVec.toNat = Reference.limbs 8 n v := by
  rw [bytesLE, Reference.limbs, List.map_map]
  exact List.map_congr_left fun j _ => byteOf_toNat v j

theorem lexOrder_eq_scanTop (xs ys : List Byte) :
    lexOrder xs ys = Reference.scanTop (xs.map BitVec.toNat) (ys.map BitVec.toNat) := by
  induction xs generalizing ys with
  | nil => cases ys <;> rfl
  | cons x xs ih =>
    cases ys with
    | nil => rfl
    | cons y ys => rw [lexOrder, ih]; rfl

/-- Two buffers of big-endian bytes of one count are ordered as the limb scan orders the numbers: the padding is equal. -/
theorem lexOrder_bufferOf_bytesOf_big {n : Nat} (hn : n ≤ bufBytes) (a b : Nat) :
    lexOrder (bufferOf (bytesOf .big a n)).toList (bufferOf (bytesOf .big b n)).toList = Reference.compareLimbs 8 n a b := by
  have hlist : ∀ v, (bufferOf (bytesOf .big v n)).toList.map BitVec.toNat =
      (Reference.limbs 8 n v).reverse ++ List.replicate (bufBytes - n) 0 := fun v => by
    rw [bufferOf_toList (by simpa using hn), bytesOf_length, bytesOf, List.map_append, List.map_reverse,
      map_toNat_bytesLE, List.map_replicate]
    rfl
  rw [lexOrder_eq_scanTop, hlist, hlist, Reference.scanTop_append_right _ (by simp [Reference.limbs]),
    Reference.compareLimbs]

end Sys2Proof.Machine

namespace Sys2Proof

open Sys2Proof.Machine Sys2Proof.Claims

/-- Settles O43: CMP is the relational command whose predicate is never true. -/
theorem cmpFollowsItsRule : Obligations.CmpFollowsItsRule := by
  unfold Obligations.CmpFollowsItsRule
  exact fun ws pol s => relationalRule rfl rfl (exec_cmp ws pol s) fun _ _ => rfl

/-- Settles O44: the predicates of EQ and NE are equality and its negation. -/
theorem equalityCommandsFollowTheirRules : Obligations.EqualityCommandsFollowTheirRules := by
  unfold Obligations.EqualityCommandsFollowTheirRules
  exact fun ws pol s =>
    ⟨relationalRule rfl rfl (exec_eq ws pol s) compareNat_beq_eq,
      relationalRule rfl rfl (exec_ne ws pol s) compareNat_bne_eq⟩

/-- Settles O45: LT and GT test for one three-way result, LE and GE for the absence of the opposite one. -/
theorem orderCommandsFollowTheirRules : Obligations.OrderCommandsFollowTheirRules := by
  unfold Obligations.OrderCommandsFollowTheirRules
  exact fun ws pol s =>
    ⟨relationalRule rfl rfl (exec_lt ws pol s) compareNat_beq_lt,
      relationalRule rfl rfl (exec_le ws pol s) compareNat_bne_gt,
      relationalRule rfl rfl (exec_gt ws pol s) compareNat_beq_gt,
      relationalRule rfl rfl (exec_ge ws pol s) compareNat_bne_lt⟩

/-- Settles O58: the width fits into the limbs, so the scan sees all of both numbers. -/
theorem limbScanAgrees : Obligations.LimbScanAgrees := by
  unfold Obligations.LimbScanAgrees
  intro lb L W a b hfits ha hb
  have hle : 2 ^ W ≤ 2 ^ (lb * L) := Nat.pow_le_pow_right Nat.two_pos hfits.width_le
  exact Reference.compareLimbs_of_lt (ha.trans_le hle) (hb.trans_le hle)

/-- Settles O46: the order of the big-endian bytes is the scan of limbs of 8 bits. -/
theorem compareAgreesWithBigEndianBytes : Obligations.CompareAgreesWithBigEndianBytes := by
  unfold Obligations.CompareAgreesWithBigEndianBytes
  intro ws pol W s hready
  obtain ⟨hW, ha, hb⟩ := hready
  have hle : 2 ^ W ≤ 2 ^ (8 * nbytes W) := Nat.pow_le_pow_right Nat.two_pos (width_le_bytes W)
  have hn : nbytes W ≤ bufBytes := (nbytes_le hW).trans (by decide)
  have horder : lexOrder (bufferOf (bytesOf .big (valA s) (nbytes W))).toList
      (bufferOf (bytesOf .big (valB s) (nbytes W))).toList = compareNat (valA s) (valB s) :=
    (lexOrder_bufferOf_bytesOf_big hn _ _).trans
      (Reference.compareLimbs_of_lt (ha.2.trans_le hle) (hb.2.trans_le hle))
  have hcmp := relational_of_ready (pred := fun _ => false) ⟨hW, ha, hb⟩
  have hta := execTobytes_of_ready pol .big (s := s) ⟨hW, ha⟩
  have htb := execTobytes_of_ready pol .big (s := { s with latch := { s.latch with a := s.latch.b } }) ⟨hW, hb⟩
  refine ⟨_, _, _, hcmp, hta, htb, ?_⟩
  simp only [State.respond_rsp, Response.setOut_out, horder]
  refine (statusOrd_statusWord 0 false (ordCode (compareNat (valA s) (valB s))) false).trans ?_
  cases compareNat (valA s) (valB s) <;> rfl

end Sys2Proof
end

section
/-! PROOF. ADD, SUB and INC under the overflow policies (R83 to R90), and the ripple-carry and ripple-borrow chains on limbs
against the sum and the difference of the numbers (R85, R88). -/

namespace Sys2Proof.Machine

open Sys2Proof.Claims

/-! ### The overflow policy (R83) -/

/-- A command that ends in ApplyPolicy completes with what its policy says, once its exact and its wrapped result are given
as natural numbers in the case in which each is written. -/
theorem applyPolicy_completes (s : State) (ws : WSel) (pol : Policy) (bound : Nat) {W : Nat} {e : ErrCode} {x : Int}
    {cond : Bool} {result wrapped : Nat} (hresult : cond = false → x.toNat = result)
    (hwrapped : cond = true → (x % (2 ^ W : Nat)).toNat = wrapped) :
    CompletesWith (s.finish ws (applyPolicy ws W pol e x cond bound)) s
      (underPolicy ws pol cond result wrapped bound (statusWord e.code e.setsOvf 0 false)) := by
  have written : ∀ v, CompletesWith (s.finish ws (.ok (((Response.default ws).setOvf cond).setRes0 v))) s
      (reply ws v 0 (statusWord 0 cond 0 false)) := fun v => by
    rw [State.finish_ok (by simp)]
    exact ⟨_, rfl, rfl, rfl, rfl, rfl, rfl⟩
  cases cond with
  | false => exact hresult rfl ▸ written x.toNat
  | true =>
    cases pol with
    | checked =>
      have raised := completesWith_error s ws e
      rwa [← State.finish_error] at raised
    | wrapping => exact hwrapped rfl ▸ written (x % (2 ^ W : Nat)).toNat
    | saturating => exact written bound

/-- The wrapped difference of two numbers of W bits, the smaller minus the larger (R89). -/
theorem sub_emod_of_lt {a b m : Nat} (hab : a < b) (hb : b ≤ m) : (((a : Int) - b) % (m : Nat)).toNat = a + m - b := by
  have hcast : ((a : Int) - b) + (m : Nat) = ((a + m - b : Nat) : Int) := by omega
  rw [← Int.add_emod_right, hcast, ← Int.natCast_mod, Int.toNat_natCast, Nat.mod_eq_of_lt (by omega)]

namespace Reference

/-! ### Limbs and the numbers they hold (R9, R41) -/

section Limbs
variable (lb L v : Nat)

@[simp] theorem limbs_length : (limbs lb L v).length = L := by simp [limbs]

@[simp] theorem limbs_zero : limbs lb 0 v = [] := rfl

/-- The lowest limb, and the limbs of what is above it. -/
theorem limbs_succ : limbs lb (L + 1) v = v % 2 ^ lb :: limbs lb L (v / 2 ^ lb) := by
  have hlimb : ∀ j, limb lb v (j + 1) = limb lb (v / 2 ^ lb) j := fun j => by
    rw [limb, limb, Nat.div_div_eq_div_mul, ← Nat.pow_add, Nat.mul_succ, Nat.add_comm lb]
  rw [limbs, List.range_succ_eq_map, List.map_cons, List.map_map]
  congr 1
  · simp [limb]
  · exact List.map_congr_left fun j _ => hlimb j

theorem limbs_lt : ∀ x ∈ limbs lb L v, x < 2 ^ lb := by
  intro x hx
  obtain ⟨j, -, rfl⟩ := List.mem_map.1 hx
  exact Nat.mod_lt _ (Nat.two_pow_pos lb)

theorem ofLimbs_limbs : ofLimbs lb (limbs lb L v) = v % 2 ^ (lb * L) := by
  induction L generalizing v with
  | zero => simp [ofLimbs, Nat.mod_one]
  | succ L ih => rw [limbs_succ, ofLimbs, ih, Nat.mul_succ, Nat.add_comm (lb * L), Nat.pow_add, Nat.mod_mul]

end Limbs

/-- A number that the limbs hold whole is read back. -/
theorem ofLimbs_limbs_of_lt {lb L v : Nat} (hv : v < 2 ^ (lb * L)) : ofLimbs lb (limbs lb L v) = v := by
  rw [ofLimbs_limbs, Nat.mod_eq_of_lt hv]

/-- One more limb below numbers that n limbs hold gives a number that n + 1 limbs hold. -/
theorem ofLimbs_cons_lt {lb n x : Nat} {xs : List Nat} (hx : x < 2 ^ lb) (hxs : ofLimbs lb xs < 2 ^ (lb * n)) :
    ofLimbs lb (x :: xs) < 2 ^ (lb * (n + 1)) :=
  calc x + 2 ^ lb * ofLimbs lb xs
      < 2 ^ lb * (ofLimbs lb xs + 1) := by rw [Nat.mul_succ]; omega
    _ ≤ 2 ^ lb * 2 ^ (lb * n) := Nat.mul_le_mul_left _ hxs
    _ = 2 ^ (lb * (n + 1)) := by rw [← Nat.pow_add, Nat.mul_succ, Nat.add_comm]

/-- Whatever the limbs hold more than the width, the mask keeps the low W bits (R11). -/
theorem Fits.mod_mod {lb L W : Nat} (h : Fits lb L W) (v : Nat) : v % 2 ^ (lb * L) % 2 ^ W = v % 2 ^ W :=
  Nat.mod_mod_of_dvd v (Nat.pow_dvd_pow 2 h.width_le)

theorem Fits.pow_le {lb L W : Nat} (h : Fits lb L W) : 2 ^ W ≤ 2 ^ (lb * L) :=
  Nat.pow_le_pow_right Nat.two_pos h.width_le

/-! ### The ripple-carry chain (R85) -/

@[simp] theorem rippleAdd_nil (lb c : Nat) : rippleAdd lb [] [] c = ([], c) := rfl

@[simp] theorem rippleAdd_cons (lb x y c : Nat) (xs ys : List Nat) : rippleAdd lb (x :: xs) (y :: ys) c =
    ((x + y + c) % 2 ^ lb :: (rippleAdd lb xs ys ((x + y + c) / 2 ^ lb)).1,
      (rippleAdd lb xs ys ((x + y + c) / 2 ^ lb)).2) := rfl

/-- The sum's limbs and the final carry above them hold the sum and the carry that came in. -/
theorem ofLimbs_rippleAdd (lb : Nat) {xs ys : List Nat} (c : Nat) (hlen : xs.length = ys.length) :
    ofLimbs lb (rippleAdd lb xs ys c).1 < 2 ^ (lb * xs.length) ∧
    ofLimbs lb (rippleAdd lb xs ys c).1 + 2 ^ (lb * xs.length) * (rippleAdd lb xs ys c).2 =
      ofLimbs lb xs + ofLimbs lb ys + c := by
  induction xs generalizing ys c with
  | nil =>
    obtain rfl := List.length_eq_zero_iff.1 hlen.symm
    simp [ofLimbs]
  | cons x xs ih =>
    obtain ⟨y, ys, rfl⟩ := List.exists_cons_of_length_eq_add_one hlen.symm
    obtain ⟨hlt, hrest⟩ := ih ((x + y + c) / 2 ^ lb) (Nat.succ.inj hlen)
    have hdigit := Nat.mod_add_div (x + y + c) (2 ^ lb)
    rw [rippleAdd_cons, List.length_cons]
    refine ⟨ofLimbs_cons_lt (Nat.mod_lt _ (Nat.two_pow_pos lb)) hlt, ?_⟩
    simp only [ofLimbs, Nat.mul_succ, Nat.pow_add]
    linear_combination hdigit + 2 ^ lb * hrest

/-- The chain on the limbs of two numbers divides their sum by what the limbs hold: the carry is the quotient and the limbs
are the remainder. -/
theorem rippleAdd_limbs {lb L a b : Nat} (ha : a < 2 ^ (lb * L)) (hb : b < 2 ^ (lb * L)) :
    (rippleAdd lb (limbs lb L a) (limbs lb L b) 0).2 = (a + b) / 2 ^ (lb * L) ∧
      ofLimbs lb (rippleAdd lb (limbs lb L a) (limbs lb L b) 0).1 = (a + b) % 2 ^ (lb * L) := by
  obtain ⟨hlt, hsum⟩ := ofLimbs_rippleAdd lb (xs := limbs lb L a) (ys := limbs lb L b) 0 (by simp)
  rw [limbs_length] at hlt hsum
  rw [ofLimbs_limbs_of_lt ha, ofLimbs_limbs_of_lt hb] at hsum
  obtain ⟨hquot, hrem⟩ := (Nat.div_mod_unique (Nat.two_pow_pos (lb * L))).2 ⟨hsum, hlt⟩
  exact ⟨hquot.symm, hrem.symm⟩

/-- A sum of two numbers of W bits is below 2^(W+1), so that its overflow condition is one bit. -/
theorem add_div_pow_eq_one_iff {W a b : Nat} (ha : a < 2 ^ W) (hb : b < 2 ^ W) :
    (a + b) / 2 ^ W = 1 ↔ 2 ^ W ≤ a + b := by
  rw [Nat.div_eq_iff (Nat.two_pow_pos W)]
  omega

theorem testBit_width_add {W a b : Nat} (ha : a < 2 ^ W) (hb : b < 2 ^ W) : (a + b).testBit W = decide (2 ^ W ≤ a + b) := by
  have hbit : (a + b) / 2 ^ W < 2 := Nat.div_lt_of_lt_mul (by omega)
  rw [Nat.testBit_eq_decide_div_mod_eq, Nat.mod_eq_of_lt hbit, decide_eq_decide]
  exact add_div_pow_eq_one_iff ha hb

section Add
variable {lb L W a b : Nat} (hfits : Fits lb L W) (ha : a < 2 ^ W) (hb : b < 2 ^ W)
include hfits ha hb

theorem add_value : (add lb L W a b).1 = (a + b) % 2 ^ W := by
  obtain ⟨-, hsum⟩ := rippleAdd_limbs (ha.trans_le hfits.pow_le) (hb.trans_le hfits.pow_le)
  rw [add, maskTo, hsum, hfits.mod_mod]

/-- Where W fills the limbs the condition is the carry above them, and else bit W of the one backing word. -/
theorem add_condition : (add lb L W a b).2 = decide (2 ^ W ≤ a + b) := by
  obtain ⟨hcarry, hsum⟩ := rippleAdd_limbs (ha.trans_le hfits.pow_le) (hb.trans_le hfits.pow_le)
  obtain ⟨-, rfl | ⟨rfl, hW⟩⟩ := hfits
  · rw [add, if_pos rfl, hcarry, Bool.eq_iff_iff, beq_iff_eq, decide_eq_true_iff]
    exact add_div_pow_eq_one_iff ha hb
  · rw [add, if_neg (by omega), hsum, Nat.mul_one, Nat.testBit_mod_two_pow, decide_eq_true hW, Bool.true_and]
    exact testBit_width_add ha hb

end Add

/-! ### The ripple-borrow chain (R88) -/

@[simp] theorem rippleSub_nil (lb br : Nat) : rippleSub lb [] [] br = ([], br) := rfl

/-- One digit of the chain: the difference digit and the outgoing borrow `out`, which is 1 exactly where the digits with the
incoming borrow would go below zero. -/
theorem rippleSub_cons {lb x y br : Nat} (xs ys : List Nat) (hx : x < 2 ^ lb) (hy : y < 2 ^ lb) (hbr : br ≤ 1) :
    ∃ d out, rippleSub lb (x :: xs) (y :: ys) br = (d :: (rippleSub lb xs ys out).1, (rippleSub lb xs ys out).2) ∧
      d < 2 ^ lb ∧ out ≤ 1 ∧ d + y + br = x + 2 ^ lb * out := by
  refine ⟨_, _, rfl, ?_⟩
  by_cases hneg : (x : Int) - y - br < 0
  · simp only [if_pos hneg]; omega
  · simp only [if_neg hneg]; omega

/-- The difference's limbs with the subtrahend and the borrow that came in make up the minuend and the final borrow. -/
theorem ofLimbs_rippleSub {lb : Nat} {xs ys : List Nat} {br : Nat} (hlen : xs.length = ys.length)
    (hx : ∀ x ∈ xs, x < 2 ^ lb) (hy : ∀ y ∈ ys, y < 2 ^ lb) (hbr : br ≤ 1) :
    (rippleSub lb xs ys br).2 ≤ 1 ∧ ofLimbs lb (rippleSub lb xs ys br).1 < 2 ^ (lb * xs.length) ∧
    ofLimbs lb (rippleSub lb xs ys br).1 + ofLimbs lb ys + br =
      ofLimbs lb xs + 2 ^ (lb * xs.length) * (rippleSub lb xs ys br).2 := by
  induction xs generalizing ys br with
  | nil =>
    obtain rfl := List.length_eq_zero_iff.1 hlen.symm
    simp [ofLimbs, hbr]
  | cons x xs ih =>
    obtain ⟨y, ys, rfl⟩ := List.exists_cons_of_length_eq_add_one hlen.symm
    rw [List.forall_mem_cons] at hx hy
    obtain ⟨d, out, hcons, hd, hout, hdigit⟩ := rippleSub_cons xs ys hx.1 hy.1 hbr
    obtain ⟨hle, hlt, hrest⟩ := ih (Nat.succ.inj hlen) hx.2 hy.2 hout
    rw [hcons, List.length_cons]
    refine ⟨hle, ofLimbs_cons_lt hd hlt, ?_⟩
    simp only [ofLimbs, Nat.mul_succ, Nat.pow_add]
    linear_combination hdigit + 2 ^ lb * hrest

/-- The chain on the limbs of two numbers borrows once what the limbs hold, exactly where the difference is below zero. -/
theorem rippleSub_limbs {lb L a b : Nat} (ha : a < 2 ^ (lb * L)) (hb : b < 2 ^ (lb * L)) :
    ((rippleSub lb (limbs lb L a) (limbs lb L b) 0).2 = 1 ↔ a < b) ∧
      ofLimbs lb (rippleSub lb (limbs lb L a) (limbs lb L b) 0).1 + b =
        a + 2 ^ (lb * L) * (rippleSub lb (limbs lb L a) (limbs lb L b) 0).2 := by
  obtain ⟨hle, hlt, hsum⟩ := ofLimbs_rippleSub (xs := limbs lb L a) (ys := limbs lb L b) (by simp) (limbs_lt lb L a)
    (limbs_lt lb L b) zero_le_one
  rw [limbs_length] at hlt hsum
  rw [ofLimbs_limbs_of_lt ha, ofLimbs_limbs_of_lt hb, Nat.add_zero] at hsum
  refine ⟨?_, hsum⟩
  obtain hout | hout := Nat.le_one_iff_eq_zero_or_eq_one.1 hle
  · rw [hout] at hsum ⊢; omega
  · rw [hout] at hsum ⊢; omega

section Sub
variable {lb L W a b : Nat} (hfits : Fits lb L W) (ha : a < 2 ^ W) (hb : b < 2 ^ W)
include hfits ha hb

/-- Masked to the width, what was borrowed disappears. -/
theorem sub_value : (sub lb L W a b).1 = (a + 2 ^ W - b) % 2 ^ W := by
  obtain ⟨-, hsum⟩ := rippleSub_limbs (ha.trans_le hfits.pow_le) (hb.trans_le hfits.pow_le)
  obtain ⟨k, hk⟩ := Nat.pow_dvd_pow 2 hfits.width_le
  rw [sub, maskTo]
  refine Nat.ModEq.add_right_cancel' b ?_
  rw [hsum, Nat.sub_add_cancel (by omega), Nat.ModEq, hk, Nat.mul_assoc, Nat.add_mul_mod_self_left, Nat.add_mod_right]

theorem sub_condition : (sub lb L W a b).2 = decide (a < b) := by
  obtain ⟨hborrow, -⟩ := rippleSub_limbs (ha.trans_le hfits.pow_le) (hb.trans_le hfits.pow_le)
  rw [sub, Bool.eq_iff_iff, beq_iff_eq, decide_eq_true_iff]
  exact hborrow

end Sub

end Reference

end Sys2Proof.Machine

namespace Sys2Proof

open Sys2Proof.Machine Sys2Proof.Claims

/-- Settles O27: the sum is a natural number, and so is its remainder. -/
theorem addFollowsItsRule : Obligations.AddFollowsItsRule := by
  unfold Obligations.AddFollowsItsRule
  refine fun ws pol s => ⟨encoded_word (.add ws pol), operandErrors_operandsRead (.add ws pol) s, fun W hready => ?_⟩
  obtain ⟨hW, ha, hb⟩ := hready
  rw [exec_add, execAdd, binary_of_valid hW ha hb]
  exact applyPolicy_completes s ws pol (maskOf W) (fun _ => rfl) fun _ => rfl

/-- Settles O28: below zero the wrapped difference is 2^W more. -/
theorem subFollowsItsRule : Obligations.SubFollowsItsRule := by
  unfold Obligations.SubFollowsItsRule
  refine fun ws pol s => ⟨encoded_word (.sub ws pol), operandErrors_operandsRead (.sub ws pol) s, fun W hready => ?_⟩
  obtain ⟨hW, ha, hb⟩ := hready
  rw [exec_sub, execSub, binary_of_valid hW ha hb]
  exact applyPolicy_completes s ws pol 0 (fun _ => Int.toNat_sub _ _)
    fun hlt => sub_emod_of_lt (of_decide_eq_true hlt) hb.2.le

/-- Settles O29: a + 1 reaches 2^W exactly when a is 2^W - 1, and wraps to 0 there. -/
theorem incFollowsItsRule : Obligations.IncFollowsItsRule := by
  unfold Obligations.IncFollowsItsRule
  refine fun ws pol s => ⟨encoded_word (.inc ws pol), operandErrors_operandsRead (.inc ws pol) s, fun W hready => ?_⟩
  obtain ⟨hW, ha⟩ := hready
  have hlt : valA s < 2 ^ W := ha.2
  have hcond : 2 ^ W ≤ valA s + 1 ↔ valA s = 2 ^ W - 1 := by omega
  rw [exec_inc, execInc, unary_of_valid hW ha, ← decide_eq_decide.2 hcond]
  refine applyPolicy_completes s ws pol (maskOf W) (fun _ => rfl) fun hover => ?_
  have hwrap : valA s + 1 = 2 ^ W := le_antisymm hlt (of_decide_eq_true hover)
  calc (((valA s + 1 : Nat) : Int) % (2 ^ W : Nat)).toNat = (valA s + 1) % 2 ^ W := rfl
    _ = 0 := by rw [hwrap, Nat.mod_self]

/-- Settles O30: with B = 1, which every width holds, both commands end in ApplyPolicy on a + 1. -/
theorem incIsAddOfOne : Obligations.IncIsAddOfOne := by
  unfold Obligations.IncIsAddOfOne
  intro ws pol W s hready
  obtain ⟨hW, ha⟩ := hready
  have hlt : 1 < 2 ^ W := Nat.one_lt_two_pow (widthOf_pos hW).ne'
  have hone : (⟨ws, 1#1024⟩ : Tagged).nat = 1 := toNat_ofNat_of_lt hW hlt
  have policyOnSum (u : State) := applyPolicy_completes u ws pol (maskOf W) (W := W) (e := .overflow)
    (x := ((valA s + 1 : Nat) : Int)) (cond := decide (2 ^ W ≤ valA s + 1)) (fun _ => rfl) (fun _ => rfl)
  obtain ⟨t, ht, hrsp, -⟩ := policyOnSum s
  obtain ⟨t', ht', hrsp', -⟩ := policyOnSum { s with latch := { s.latch with b := ⟨ws, 1#1024⟩ } }
  refine ⟨t, t', ?_, ?_, hrsp.trans hrsp'.symm⟩
  · rw [exec_inc, execInc, unary_of_valid hW ha]
    exact ht
  · rw [exec_add, execAdd, binary_of_valid (s := { s with latch := { s.latch with b := ⟨ws, 1#1024⟩ } }) hW ha
      ⟨rfl, hone.trans_lt hlt⟩, hone]
    exact ht'

/-- Settles O54, on limbs that W fills and on the one backing word. -/
theorem rippleCarryAgrees : Obligations.RippleCarryAgrees := by
  unfold Obligations.RippleCarryAgrees
  exact fun _ _ _ _ _ hfits ha hb => Prod.ext (Reference.add_value hfits ha hb) (Reference.add_condition hfits ha hb)

/-- Settles O55: the final borrow is the condition in both shapes. -/
theorem rippleBorrowAgrees : Obligations.RippleBorrowAgrees := by
  unfold Obligations.RippleBorrowAgrees
  exact fun _ _ _ _ _ hfits ha hb => Prod.ext (Reference.sub_value hfits ha hb) (Reference.sub_condition hfits ha hb)

end Sys2Proof
end

section
/-! PROOF. MUL under the overflow policies, DIV, REM and DIVREM with the one error they share (R91 to R98); schoolbook
multiplication on limbs against the product of the numbers (R92), and binary long division against their quotient and
remainder (R95). -/

namespace Sys2Proof.Machine

open Sys2Proof.Claims

/-! ### The division commands (R94, R96 to R98) -/

section Division
variable {ws : WSel} {W : Nat} {s : State}

/-- One rule for all division commands: what is left to each is the two results it writes. -/
theorem division_completes (res0 res1 : Nat → Nat → Nat) (h : BinaryReady ws W s) :
    CompletesWith (binary ws s fun _ a b => nonzeroDivisor b (reply ws (res0 a b) (res1 a b) 0x00#32)) s
      (if valB s = 0 then reply ws 0 0 0x03#32 else reply ws (res0 (valA s) (valB s)) (res1 (valA s) (valB s)) 0x00#32) := by
  obtain ⟨hW, ha, hb⟩ := h
  rw [binary_of_valid hW ha hb, nonzeroDivisor, Tagged.nat]
  split
  · rw [State.finish_error]
    exact completesWith_error s ws .divisionByZero
  · rw [State.finish_ok (by simp [reply, statusErr])]
    exact ⟨_, rfl, rfl, rfl, rfl, rfl, rfl⟩

variable (pol : Policy) (h : BinaryReady ws W s)
include h

theorem execDiv_completes : CompletesWith (execDiv ws pol s) s
    (if valB s = 0 then reply ws 0 0 0x03#32 else reply ws (valA s / valB s) 0 0x00#32) :=
  division_completes (· / ·) (fun _ _ => 0) h

theorem execRem_completes : CompletesWith (execRem ws pol s) s
    (if valB s = 0 then reply ws 0 0 0x03#32 else reply ws (valA s % valB s) 0 0x00#32) :=
  division_completes (· % ·) (fun _ _ => 0) h

theorem execDivrem_completes : CompletesWith (execDivrem ws pol s) s
    (if valB s = 0 then reply ws 0 0 0x03#32 else reply ws (valA s / valB s) (valA s % valB s) 0x00#32) :=
  division_completes (· / ·) (· % ·) h

end Division

namespace Reference

/-! ### Binary long division (R95) -/

/-- The loop keeps what is still to be divided: the quotient so far times the divisor, the remainder so far in its place
above the i bits to come, and those bits; and it keeps the remainder below the divisor. -/
theorem longDivLoop_invariant (a : Nat) {b : Nat} (i q : Nat) {r : Nat} (hr : r < b) :
    (longDivLoop a b i q r).2 + b * (longDivLoop a b i q r).1 = b * q + 2 ^ i * r + a % 2 ^ i ∧
      (longDivLoop a b i q r).2 < b := by
  induction i generalizing q r with
  | zero =>
    refine ⟨?_, hr⟩
    simp [longDivLoop, Nat.mod_one, Nat.add_comm]
  | succ i ih =>
    have hbit : a % 2 ^ (i + 1) = a % 2 ^ i + 2 ^ i * (a / 2 ^ i % 2) := Nat.mod_pow_succ
    rw [longDivLoop, hbit, Nat.pow_succ]
    split
    next hle =>
      obtain ⟨r', hr'⟩ := Nat.exists_eq_add_of_le hle
      obtain ⟨hsum, hlt⟩ := ih (q + 2 ^ i) (r := r') (by omega)
      rw [hr', Nat.add_sub_cancel_left]
      refine ⟨?_, hlt⟩
      linear_combination hsum - 2 ^ i * hr'
    next hgt =>
      obtain ⟨hsum, hlt⟩ := ih q (Nat.lt_of_not_le hgt)
      refine ⟨?_, hlt⟩
      linear_combination hsum

/-- From an empty quotient and remainder the loop divides the dividend's W bits. -/
theorem longDiv_eq {W a b : Nat} (ha : a < 2 ^ W) (hb : b ≠ 0) : longDiv W a b = (a / b, a % b) := by
  have hpos : 0 < b := Nat.pos_of_ne_zero hb
  obtain ⟨hsum, hlt⟩ := longDivLoop_invariant a W 0 hpos
  rw [Nat.mul_zero, Nat.mul_zero, Nat.zero_add, Nat.mod_eq_of_lt ha] at hsum
  obtain ⟨hquot, hrem⟩ := (Nat.div_mod_unique hpos).2 ⟨hsum, hlt⟩
  exact Prod.ext hquot.symm hrem.symm

/-! ### Schoolbook multiplication (R92) -/

theorem ofLimbs_replicate_zero (lb n : Nat) : ofLimbs lb (List.replicate n 0) = 0 := by
  induction n with
  | zero => rfl
  | succ n ih => rw [List.replicate_succ, ofLimbs, ih, Nat.mul_zero]

/-- A row over as many limbs as b has, with the cell above them still 0: it adds the limb's product and the carry that came
in, fills that cell with the last carry and leaves the cells above it as they are. -/
theorem mulRow_append (lb x : Nat) {ys acc : List Nat} (above : List Nat) (c : Nat) (hlen : acc.length = ys.length) :
    ∃ d row, mulRow lb x ys (acc ++ 0 :: above) c = d :: (row ++ above) ∧ row.length = ys.length ∧
      ofLimbs lb (d :: row) = ofLimbs lb acc + x * ofLimbs lb ys + c := by
  induction ys generalizing acc c with
  | nil =>
    obtain rfl := List.length_eq_zero_iff.1 hlen
    exact ⟨c, [], rfl, rfl, by simp [ofLimbs]⟩
  | cons y ys ih =>
    obtain ⟨p, acc, rfl⟩ := List.exists_cons_of_length_eq_add_one hlen
    obtain ⟨d, row, hrow, hrowlen, hsum⟩ := ih ((p + x * y + c) / 2 ^ lb) (Nat.succ.inj hlen)
    have hdigit := Nat.mod_add_div (p + x * y + c) (2 ^ lb)
    refine ⟨(p + x * y + c) % 2 ^ lb, d :: row, ?_, congrArg (· + 1) hrowlen, ?_⟩
    · exact congrArg (_ :: ·) hrow
    · rw [ofLimbs, hsum]
      simp only [ofLimbs]
      linear_combination hdigit

/-- The double loop, with one cell of zero for each row still to come: the buffer ends up holding what it held and the
product. -/
theorem ofLimbs_mulRows (lb : Nat) {xs bs acc : List Nat} (hlen : acc.length = bs.length) :
    ofLimbs lb (mulRows lb xs bs (acc ++ List.replicate xs.length 0)) = ofLimbs lb acc + ofLimbs lb xs * ofLimbs lb bs := by
  induction xs generalizing acc with
  | nil => simp [mulRows, ofLimbs]
  | cons x xs ih =>
    obtain ⟨d, row, hrow, hrowlen, hsum⟩ := mulRow_append lb x (List.replicate xs.length 0) 0 hlen
    rw [List.length_cons, List.replicate_succ, mulRows, hrow, List.headD_cons, List.tail_cons, ofLimbs, ih hrowlen]
    simp only [ofLimbs] at hsum ⊢
    linear_combination hsum

/-- The double-width buffer loses nothing of two numbers that L limbs hold. -/
theorem product_eq {lb L a b : Nat} (ha : a < 2 ^ (lb * L)) (hb : b < 2 ^ (lb * L)) : product lb L a b = a * b := by
  have hbuffer : List.replicate (2 * L) 0 = List.replicate L 0 ++ List.replicate (limbs lb L a).length 0 := by
    rw [limbs_length, List.replicate_append_replicate, Nat.two_mul]
  rw [product, hbuffer, ofLimbs_mulRows lb (by simp), ofLimbs_replicate_zero, ofLimbs_limbs_of_lt ha,
    ofLimbs_limbs_of_lt hb, Nat.zero_add]

end Reference

end Sys2Proof.Machine

namespace Sys2Proof

open Sys2Proof.Machine Sys2Proof.Claims

/-- Settles O31: the product is a natural number, and so is its remainder. -/
theorem mulFollowsItsRule : Obligations.MulFollowsItsRule := by
  unfold Obligations.MulFollowsItsRule
  refine fun ws pol s => ⟨encoded_word (.mul ws pol), operandErrors_operandsRead (.mul ws pol) s, fun W hready => ?_⟩
  obtain ⟨hW, ha, hb⟩ := hready
  rw [exec_mul, execMul, binary_of_valid hW ha hb]
  exact applyPolicy_completes s ws pol (maskOf W) (fun _ => rfl) fun _ => rfl

/-- Settles O32: the shared rule of the division commands, with the quotient. -/
theorem divFollowsItsRule : Obligations.DivFollowsItsRule := by
  unfold Obligations.DivFollowsItsRule
  exact fun ws pol s => ⟨encoded_word (.div ws pol), operandErrors_operandsRead (.div ws pol) s,
    fun _ hready => execDiv_completes pol hready⟩

/-- Settles O33: the shared rule of the division commands, with the remainder. -/
theorem remFollowsItsRule : Obligations.RemFollowsItsRule := by
  unfold Obligations.RemFollowsItsRule
  exact fun ws pol s => ⟨encoded_word (.rem ws pol), operandErrors_operandsRead (.rem ws pol) s,
    fun _ hready => execRem_completes pol hready⟩

/-- Settles O34: the shared rule of the division commands, with both results. -/
theorem divremFollowsItsRule : Obligations.DivremFollowsItsRule := by
  unfold Obligations.DivremFollowsItsRule
  exact fun ws pol s => ⟨encoded_word (.divrem ws pol), operandErrors_operandsRead (.divrem ws pol) s,
    fun _ hready => execDivrem_completes pol hready⟩

/-- Settles O35: the three rules at b = 0. -/
theorem divisionByZeroIsAlwaysReported : Obligations.DivisionByZeroIsAlwaysReported := by
  unfold Obligations.DivisionByZeroIsAlwaysReported
  intro ws pol W s hready hzero
  have hdiv := execDiv_completes pol hready
  have hrem := execRem_completes pol hready
  have hdivrem := execDivrem_completes pol hready
  rw [if_pos hzero] at hdiv hrem hdivrem
  exact ⟨hdiv, hrem, hdivrem⟩

/-- Settles O36: quotient and remainder are at most the dividend, so the registers hold them whole. -/
theorem divremRegistersSatisfyTheIdentity : Obligations.DivremRegistersSatisfyTheIdentity := by
  unfold Obligations.DivremRegistersSatisfyTheIdentity
  intro ws pol W s hready hne
  obtain ⟨t, ht, hrsp, -⟩ := execDivrem_completes pol hready
  obtain ⟨hW, ⟨-, ha⟩, -⟩ := hready
  rw [if_neg hne] at hrsp
  have hquot : t.rsp.res0.val.toNat = valA s / valB s := by
    rw [hrsp]
    exact toNat_ofNat_of_lt hW ((Nat.div_le_self _ _).trans_lt ha)
  have hrem : t.rsp.res1.val.toNat = valA s % valB s := by
    rw [hrsp]
    exact toNat_ofNat_of_lt hW ((Nat.mod_le _ _).trans_lt ha)
  refine ⟨t, ht, ?_, ?_⟩
  · rw [hquot, hrem, Nat.div_add_mod']
  · rw [hrem]
    exact Nat.mod_lt _ (Nat.pos_of_ne_zero hne)

/-- Settles O56: the width fits into the limbs, so the limbs hold both numbers. -/
theorem schoolbookProductIsExact : Obligations.SchoolbookProductIsExact := by
  unfold Obligations.SchoolbookProductIsExact
  intro lb L W a b hfits ha hb
  have hproduct := Reference.product_eq (ha.trans_le hfits.pow_le) (hb.trans_le hfits.pow_le)
  refine ⟨hproduct, ?_⟩
  rw [Reference.mul, hproduct, maskTo]

/-- Settles O57, by the loop's invariant. -/
theorem longDivisionAgrees : Obligations.LongDivisionAgrees := by
  unfold Obligations.LongDivisionAgrees
  exact fun _ _ _ ha hb => Reference.longDiv_eq ha hb

end Sys2Proof
end

section
/-! PROOF. SHL, SHR and the four bitwise commands (R100 to R106); the barrel shifts on limbs against multiplication and
division by 2^k (R99), and the operators per limb against those on numbers (R102). -/

namespace Sys2Proof.Machine

open Sys2Proof.Claims

/-- What every shift and bitwise command ends in: its value in RES0, no flag, and the rest by default. -/
theorem value_completes (s : State) (ws : WSel) (v : Nat) :
    CompletesWith (s.finish ws (.ok ((Response.default ws).setRes0 v))) s (reply ws v 0 0x00#32) := by
  rw [State.finish_ok (by simp [statusErr])]
  exact ⟨_, rfl, rfl, rfl, rfl, rfl, rfl⟩

namespace Reference

/-! ### Single limbs (R9) -/

/-- Dropping the q lowest limbs. -/
theorem limb_div_pow_mul (lb v q j : Nat) : limb lb (v / 2 ^ (lb * q)) j = limb lb v (j + q) := by
  rw [limb, limb, Nat.div_div_eq_div_mul, ← Nat.pow_add, ← Nat.mul_add, Nat.add_comm q]

/-- Putting q limbs of 0 below a number. -/
theorem limb_mul_pow_mul (lb v q j : Nat) : limb lb (v * 2 ^ (lb * q)) j = if q ≤ j then limb lb v (j - q) else 0 := by
  split
  next hle =>
    obtain ⟨i, rfl⟩ := Nat.exists_eq_add_of_le' hle
    rw [← limb_div_pow_mul, Nat.mul_div_cancel _ (Nat.two_pow_pos _), Nat.add_sub_cancel]
  next hgt =>
    obtain ⟨i, rfl⟩ := Nat.exists_eq_add_of_lt (Nat.lt_of_not_le hgt)
    have hpow : 2 ^ (lb * (j + i + 1)) = 2 ^ (lb * i) * 2 ^ lb * 2 ^ (lb * j) := by
      rw [← Nat.pow_add, ← Nat.pow_add]; congr 1; ring
    rw [limb, hpow, ← Nat.mul_assoc, Nat.mul_div_cancel _ (Nat.two_pow_pos _), ← Nat.mul_assoc, Nat.mul_mod_left]

/-- Above what the limbs hold every limb is 0. -/
theorem limb_eq_zero {lb L v j : Nat} (hv : v < 2 ^ (lb * L)) (hj : L ≤ j) : limb lb v j = 0 := by
  have hlt : v < 2 ^ (lb * j) := hv.trans_le (Nat.pow_le_pow_right Nat.two_pos (Nat.mul_le_mul_left lb hj))
  rw [limb, Nat.div_eq_of_lt hlt, Nat.zero_mod]

theorem limb_lt (lb v j : Nat) : limb lb v j < 2 ^ lb := Nat.mod_lt _ (Nat.two_pow_pos lb)

/-- A limb of v / 2^m, for a shift within one limb, is put together from two adjacent limbs of v. -/
theorem limb_div_pow {lb m : Nat} (hm : m ≤ lb) (v j : Nat) :
    limb lb (v / 2 ^ m) j = limb lb v j / 2 ^ m + limb lb v (j + 1) * 2 ^ (lb - m) % 2 ^ lb := by
  obtain ⟨n, rfl⟩ := Nat.exists_eq_add_of_le hm
  have hnext : limb (m + n) v (j + 1) = v / 2 ^ ((m + n) * j) / (2 ^ m * 2 ^ n) % (2 ^ m * 2 ^ n) := by
    rw [limb, Nat.mul_succ, Nat.pow_add _ _ (m + n), ← Nat.div_div_eq_div_mul, ← Nat.pow_add]
  rw [hnext, limb, limb, Nat.div_right_comm, Nat.add_sub_cancel_left, Nat.pow_add 2 m n]
  generalize v / 2 ^ ((m + n) * j) = x
  calc x / 2 ^ m % (2 ^ m * 2 ^ n)
      = x / 2 ^ m % 2 ^ n + 2 ^ n * (x / 2 ^ m / 2 ^ n % 2 ^ m) := by rw [Nat.mul_comm, Nat.mod_mul]
    _ = x % (2 ^ m * 2 ^ n) / 2 ^ m + x / (2 ^ m * 2 ^ n) % (2 ^ m * 2 ^ n) * 2 ^ n % (2 ^ m * 2 ^ n) := by
        rw [Nat.mod_mul_right_div_self, Nat.mul_mod_mul_right, Nat.mod_mul_right_mod, Nat.div_div_eq_div_mul,
          Nat.mul_comm (2 ^ n)]

/-! ### The barrel shifts (R99) -/

/-- A limb of v * 2^k is put together from two adjacent limbs of v; with m = 0, which R99 tests for, the lower of them
gives nothing. -/
theorem limb_mul_pow {lb m : Nat} (hm : m ≤ lb) (v q j : Nat) :
    limb lb (v * 2 ^ (lb * q + m)) j = ((if q ≤ j then limb lb v (j - q) * 2 ^ m else 0) +
      (if q + 1 ≤ j ∧ 0 < m then limb lb v (j - q - 1) / 2 ^ (lb - m) else 0)) % 2 ^ lb := by
  have hpow : v * 2 ^ (lb * q + m) = v * 2 ^ (lb * (q + 1)) / 2 ^ (lb - m) := by
    have hexp : lb * (q + 1) = lb * q + m + (lb - m) := by rw [Nat.mul_succ, Nat.add_assoc, Nat.add_sub_cancel' hm]
    rw [hexp, Nat.pow_add _ _ (lb - m), ← Nat.mul_assoc, Nat.mul_div_cancel _ (Nat.two_pow_pos _)]
  have hupper : limb lb (v * 2 ^ (lb * (q + 1))) (j + 1) * 2 ^ m = if q ≤ j then limb lb v (j - q) * 2 ^ m else 0 := by
    rw [limb_mul_pow_mul, ite_mul, Nat.zero_mul]
    simp only [Nat.add_le_add_iff_right, Nat.add_sub_add_right]
  have hlower : limb lb (v * 2 ^ (lb * (q + 1))) j / 2 ^ (lb - m) =
      if q + 1 ≤ j ∧ 0 < m then limb lb v (j - q - 1) / 2 ^ (lb - m) else 0 := by
    obtain rfl | hpos := Nat.eq_zero_or_pos m
    · rw [if_neg (by simp), Nat.sub_zero, Nat.div_eq_of_lt (limb_lt _ _ _)]
    · rw [limb_mul_pow_mul, apply_ite (· / 2 ^ (lb - m)), Nat.zero_div, Nat.sub_sub]
      simp only [hpos, and_true]
  rw [← Nat.mod_eq_of_lt (limb_lt lb _ j), hpow, limb_div_pow (Nat.sub_le lb m), Nat.sub_sub_self hm, Nat.add_mod_mod,
    hupper, hlower, Nat.add_comm]

/-- A limb of v / 2^k, for a number that L limbs hold: what R99 does not read is 0. -/
theorem limb_div_pow_of_lt {lb L m v : Nat} (hm : m ≤ lb) (hv : v < 2 ^ (lb * L)) (hL : 0 < L) (q j : Nat) :
    limb lb (v / 2 ^ (lb * q + m)) j = (if j + q ≤ L - 1 then limb lb v (j + q) / 2 ^ m else 0) +
      (if j + q + 1 ≤ L - 1 ∧ 0 < m then limb lb v (j + q + 1) * 2 ^ (lb - m) % 2 ^ lb else 0) := by
  have hlower : limb lb v (j + q) / 2 ^ m = if j + q ≤ L - 1 then limb lb v (j + q) / 2 ^ m else 0 := by
    split
    · rfl
    · rw [limb_eq_zero hv (by omega), Nat.zero_div]
  have hupper : limb lb v (j + q + 1) * 2 ^ (lb - m) % 2 ^ lb =
      if j + q + 1 ≤ L - 1 ∧ 0 < m then limb lb v (j + q + 1) * 2 ^ (lb - m) % 2 ^ lb else 0 := by
    split
    · rfl
    next hout =>
      obtain hlast | rfl : L ≤ j + q + 1 ∨ m = 0 := by omega
      · rw [limb_eq_zero hv hlast, Nat.zero_mul, Nat.zero_mod]
      · rw [Nat.sub_zero, Nat.mul_mod_left]
  rw [Nat.add_comm (lb * q), Nat.pow_add, ← Nat.div_div_eq_div_mul, limb_div_pow_mul, limb_div_pow hm, ← hlower, ← hupper]

section Shift
variable {lb L W a : Nat} (hfits : Fits lb L W) (ha : a < 2 ^ W)
include hfits

theorem shiftLeft_eq (k : Nat) : shiftLeft lb L W a k = a * 2 ^ k % 2 ^ W := by
  rw [shiftLeft]
  split
  next hk => rw [Nat.mod_eq_zero_of_dvd ((Nat.pow_dvd_pow 2 hk).mul_left a)]
  next =>
    have hdigits := List.map_congr_left (l := List.range L) fun j _ =>
      limb_mul_pow (Nat.mod_lt k hfits.1).le a (k / lb) j
    rw [Nat.div_add_mod] at hdigits
    simp only [← hdigits]
    rw [← limbs, ofLimbs_limbs, maskTo, hfits.mod_mod]

include ha

theorem shiftRight_eq (k : Nat) : shiftRight lb L W a k = a / 2 ^ k := by
  rw [shiftRight]
  split
  next hk => rw [Nat.div_eq_of_lt (ha.trans_le (Nat.pow_le_pow_right Nat.two_pos hk))]
  next hk =>
    have hlt := ha.trans_le hfits.pow_le
    have hlimbs : 0 < lb * L := (Nat.zero_lt_of_lt (Nat.lt_of_not_le hk)).trans_le hfits.width_le
    have hL : 0 < L := Nat.pos_of_mul_pos_left hlimbs
    have hdigits := List.map_congr_left (l := List.range L) fun j _ =>
      limb_div_pow_of_lt (Nat.mod_lt k hfits.1).le hlt hL (k / lb) j
    rw [Nat.div_add_mod] at hdigits
    simp only [← hdigits]
    rw [← limbs, ofLimbs_limbs_of_lt ((Nat.div_le_self _ _).trans_lt hlt)]

end Shift

/-! ### The operators per limb (R102) -/

/-- An operator that acts on each limb by itself acts on the whole number, when its result keeps the width. -/
theorem bitwise_eq {f : Nat → Nat → Nat} {lb L W a b : Nat} (hfits : Fits lb L W)
    (hlimb : ∀ j, limb lb (f a b) j = f (limb lb a j) (limb lb b j)) (hlt : f a b < 2 ^ W) :
    bitwise f lb L W a b = f a b := by
  have hzip : List.zipWith f (limbs lb L a) (limbs lb L b) = limbs lb L (f a b) := by
    rw [limbs, limbs, List.zipWith_map, List.zipWith_self]
    exact List.map_congr_left fun j _ => (hlimb j).symm
  rw [bitwise, hzip, ofLimbs_limbs, maskTo, hfits.mod_mod, Nat.mod_eq_of_lt hlt]

theorem limb_and (lb a b j : Nat) : limb lb (a &&& b) j = limb lb a j &&& limb lb b j := by
  rw [limb, Nat.and_div_two_pow, Nat.and_mod_two_pow, limb, limb]

theorem limb_or (lb a b j : Nat) : limb lb (a ||| b) j = limb lb a j ||| limb lb b j := by
  rw [limb, Nat.or_div_two_pow, Nat.or_mod_two_pow, limb, limb]

theorem limb_xor (lb a b j : Nat) : limb lb (a ^^^ b) j = limb lb a j ^^^ limb lb b j := by
  rw [limb, Nat.xor_div_two_pow, Nat.xor_mod_two_pow, limb, limb]

/-- Each limb and its complement make up a limb of ones, so the two numbers make up what the limbs hold at most. -/
theorem ofLimbs_complement {lb : Nat} {xs : List Nat} (hxs : ∀ x ∈ xs, x < 2 ^ lb) :
    ofLimbs lb (xs.map fun x => maskOf lb - x) + (ofLimbs lb xs + 1) = 2 ^ (lb * xs.length) := by
  induction xs with
  | nil => rfl
  | cons x xs ih =>
    obtain ⟨hx, hrest⟩ := List.forall_mem_cons.1 hxs
    have hones : maskOf lb - x + x + 1 = 2 ^ lb := by rw [maskOf]; omega
    rw [List.map_cons, List.length_cons, Nat.mul_succ, Nat.pow_add]
    simp only [ofLimbs]
    linear_combination hones + 2 ^ lb * ih hrest

theorem complement_eq {lb L W a : Nat} (hfits : Fits lb L W) (ha : a < 2 ^ W) :
    complement lb L W a = 2 ^ W - 1 - a := by
  have hsum := ofLimbs_complement (limbs_lt lb L a)
  obtain ⟨k, hk⟩ := Nat.pow_dvd_pow 2 hfits.width_le
  rw [limbs_length, ofLimbs_limbs_of_lt (ha.trans_le hfits.pow_le), hk] at hsum
  have hvalue : 2 ^ W - 1 - a + (a + 1) = 2 ^ W := by omega
  rw [complement, maskTo, ← Nat.mod_eq_of_lt (show 2 ^ W - 1 - a < 2 ^ W by omega)]
  refine Nat.ModEq.add_right_cancel' (a + 1) ?_
  rw [Nat.ModEq, hsum, hvalue, Nat.mul_mod_right, Nat.mod_self]

end Reference

end Sys2Proof.Machine

namespace Sys2Proof

open Sys2Proof.Machine Sys2Proof.Claims

/-- Settles O37: the value SHL writes is the rule's own. -/
theorem shlFollowsItsRule : Obligations.ShlFollowsItsRule := by
  unfold Obligations.ShlFollowsItsRule
  refine fun ws pol s => ⟨encoded_word (.shl ws pol), operandErrors_operandsRead (.shl ws pol) s, fun W hready => ?_⟩
  obtain ⟨hW, ha⟩ := hready
  rw [exec_shl, execShl, unaryCount_of_valid hW ha, shiftLeftValue, maskTo]
  exact value_completes s ws _

/-- Settles O38: the value SHR writes is the rule's own. -/
theorem shrFollowsItsRule : Obligations.ShrFollowsItsRule := by
  unfold Obligations.ShrFollowsItsRule
  refine fun ws pol s => ⟨encoded_word (.shr ws pol), operandErrors_operandsRead (.shr ws pol) s, fun W hready => ?_⟩
  obtain ⟨hW, ha⟩ := hready
  rw [exec_shr, execShr, unaryCount_of_valid hW ha, shiftRightValue]
  exact value_completes s ws _

/-- Settles O39: the bits of a conjunction of numbers. -/
theorem andFollowsItsRule : Obligations.AndFollowsItsRule := by
  unfold Obligations.AndFollowsItsRule
  refine fun ws pol s => ⟨encoded_word (.and ws pol), operandErrors_operandsRead (.and ws pol) s, fun W hready => ?_⟩
  obtain ⟨hW, ha, hb⟩ := hready
  refine ⟨valA s &&& valB s, fun i => Nat.testBit_and _ _ i, ?_⟩
  rw [exec_and, execAnd, binary_of_valid hW ha hb]
  exact value_completes s ws _

/-- Settles O40: of two numbers of W bits the mask takes nothing away. -/
theorem orFollowsItsRule : Obligations.OrFollowsItsRule := by
  unfold Obligations.OrFollowsItsRule
  refine fun ws pol s => ⟨encoded_word (.or ws pol), operandErrors_operandsRead (.or ws pol) s, fun W hready => ?_⟩
  obtain ⟨hW, ha, hb⟩ := hready
  refine ⟨valA s ||| valB s, fun i => Nat.testBit_or _ _ i, ?_⟩
  rw [exec_or, execOr, binary_of_valid hW ha hb, maskTo, Tagged.nat, Tagged.nat,
    Nat.mod_eq_of_lt (Nat.or_lt_two_pow ha.2 hb.2)]
  exact value_completes s ws _

/-- Settles O41: the bits of an exclusive disjunction of numbers. -/
theorem xorFollowsItsRule : Obligations.XorFollowsItsRule := by
  unfold Obligations.XorFollowsItsRule
  refine fun ws pol s => ⟨encoded_word (.xor ws pol), operandErrors_operandsRead (.xor ws pol) s, fun W hready => ?_⟩
  obtain ⟨hW, ha, hb⟩ := hready
  refine ⟨valA s ^^^ valB s, fun i => Nat.testBit_xor _ _ i, ?_⟩
  rw [exec_xor, execXor, binary_of_valid hW ha hb]
  exact value_completes s ws _

/-- Settles O42: subtracting from 2^W - 1 flips every bit below W. -/
theorem notFollowsItsRule : Obligations.NotFollowsItsRule := by
  unfold Obligations.NotFollowsItsRule
  refine fun ws pol s => ⟨encoded_word (.not ws pol), operandErrors_operandsRead (.not ws pol) s, fun W hready => ?_⟩
  obtain ⟨hW, ha⟩ := hready
  refine ⟨fun i => ?_, ?_⟩
  · rw [Nat.sub_sub, Nat.add_comm 1]
    exact Nat.testBit_two_pow_sub_succ ha.2 i
  · rw [exec_not, execNot, unary_of_valid hW ha, maskOf]
    exact value_completes s ws _

/-- Settles O59: each limb of the shifted number is put together from two adjacent limbs. -/
theorem limbShiftsAgree : Obligations.LimbShiftsAgree := by
  unfold Obligations.LimbShiftsAgree
  exact fun _ _ _ _ k hfits ha => ⟨Reference.shiftLeft_eq hfits k, Reference.shiftRight_eq hfits ha k⟩

/-- Settles O60: the operators act on each limb by itself, and the mask removes what the complement sets above the width. -/
theorem limbBitwiseAgrees : Obligations.LimbBitwiseAgrees := by
  unfold Obligations.LimbBitwiseAgrees
  intro lb L W a b hfits ha hb
  exact ⟨Reference.bitwise_eq hfits (Reference.limb_and lb a b) (Nat.and_lt_two_pow a hb),
    Reference.bitwise_eq hfits (Reference.limb_or lb a b) (Nat.or_lt_two_pow ha hb),
    Reference.bitwise_eq hfits (Reference.limb_xor lb a b) (Nat.xor_lt_two_pow ha hb), Reference.complement_eq hfits ha⟩

end Sys2Proof
end

section
/-! PROOF. The four codec commands (R107 to R112): bytes and hex digits as limbs of 8 and of 4 bits, the number that a list of
digits stands for as a sum, and the hex alphabet in both cases. -/

namespace Sys2Proof.Machine

open Sys2Proof.Claims

/-! ### Digits and the number they stand for (R42, R43) -/

theorem reverse_map_range {α : Type} (n : Nat) (f : Nat → α) :
    ((List.range n).map f).reverse = (List.range n).map fun i => f (n - 1 - i) := by
  rw [← List.map_reverse, List.range_eq_range', List.reverse_range', List.map_map, ← List.range_eq_range', Nat.zero_add]
  rfl

namespace Reference

/-- The number of n limbs, each weighted by its place. -/
theorem ofLimbs_map_range (lb n : Nat) (f : Nat → Nat) :
    ofLimbs lb ((List.range n).map f) = ∑ i ∈ Finset.range n, f i * 2 ^ (lb * i) := by
  induction n generalizing f with
  | zero => rfl
  | succ n ih =>
    have shift : ∀ i, f (i + 1) * 2 ^ (lb * (i + 1)) = 2 ^ lb * (f (i + 1) * 2 ^ (lb * i)) := fun i => by
      rw [Nat.mul_succ, Nat.pow_add]; ring
    rw [List.range_succ_eq_map, List.map_cons, List.map_map, ofLimbs, ih, Finset.sum_range_succ', Finset.mul_sum,
      Finset.sum_congr rfl fun i _ => shift i]
    simp [Nat.add_comm]

/-- The same with the most significant limb first. -/
theorem ofLimbs_reverse_map_range (lb n : Nat) (f : Nat → Nat) :
    ofLimbs lb ((List.range n).map f).reverse = ∑ i ∈ Finset.range n, f i * 2 ^ (lb * (n - 1 - i)) := by
  rw [reverse_map_range, ofLimbs_map_range, ← Finset.sum_range_reflect]
  refine Finset.sum_congr rfl fun i hi => ?_
  rw [show n - 1 - (n - 1 - i) = i by have := Finset.mem_range.1 hi; omega]

end Reference

theorem natOfBytesLE_eq_ofLimbs (bs : List Byte) : natOfBytesLE bs = Reference.ofLimbs 8 (bs.map BitVec.toNat) := by
  induction bs with
  | nil => rfl
  | cons b bs ih => rw [natOfBytesLE, ih]; rfl

/-- Reading digits from the most significant one is reading limbs of 4 bits from the other end (R111). -/
theorem natOfDigits_eq_ofLimbs (ds : List Nat) : natOfDigits ds = Reference.ofLimbs 4 ds.reverse := by
  rw [natOfDigits, List.foldl_eq_foldr_reverse]
  induction ds.reverse with
  | nil => rfl
  | cons d ds ih => rw [List.foldr_cons, ih, Reference.ofLimbs]; omega

/-- Bytes that hold a number whole are read back as that number, in either order. -/
theorem natOfBytes_bytesOf (en : Endian) {v n : Nat} (hv : v < 2 ^ (8 * n)) : natOfBytes en (bytesOf en v n) = v := by
  have little : natOfBytesLE (bytesLE v n) = v := by
    rw [natOfBytesLE_eq_ofLimbs, map_toNat_bytesLE, Reference.ofLimbs_limbs_of_lt hv]
  cases en with
  | little => exact little
  | big => rw [natOfBytes, bytesOf, List.reverse_reverse, little]

/-! ### The hex alphabet (R107) -/

theorem hexVal_eq_some_iff {c : Byte} {d : Nat} : hexVal c = some d ↔ IsHex c d := by
  unfold hexVal IsHex
  dsimp only
  split
  · rw [Option.some_inj]; omega
  · split
    · rw [Option.some_inj]; omega
    · split
      · rw [Option.some_inj]; omega
      · exact iff_of_false nofun (by omega)

theorem hexVal_eq_none_iff {c : Byte} : hexVal c = none ↔ ∀ d, ¬ IsHex c d := by
  simp only [Option.eq_none_iff_forall_ne_some, ne_eq, hexVal_eq_some_iff]

theorem hexVal_hexChar {d : Nat} (hd : d < 16) : hexVal (hexChar d) = some d := by
  revert d; decide

theorem lowerHex_eq_hexChar (d : Nat) : lowerHex d = hexChar d := by
  unfold lowerHex hexChar
  split <;> rfl

/-- A hex letter has one value in both cases; no other byte is changed. -/
theorem hexVal_toLower (c : Byte) : hexVal (toLower c) = hexVal c := by
  by_cases hc : 0x41 ≤ c.toNat ∧ c.toNat ≤ 0x46
  · have hn : (c + 0x20#8).toNat = c.toNat + 0x20 := by rw [BitVec.toNat_add, BitVec.toNat_ofNat]; omega
    have hval : IsHex c (c.toNat - 0x41 + 10) := .inr (.inr ⟨hc.1, hc.2, rfl⟩)
    have hlower : IsHex (c + 0x20#8) (c.toNat - 0x41 + 10) := by unfold IsHex; omega
    rw [toLower, if_pos hc, hexVal_eq_some_iff.2 hval, hexVal_eq_some_iff.2 hlower]
  · rw [toLower, if_neg hc]

/-! ### Hex text (R110, R111) -/

theorem hexDigits_map {α : Type} {f : α → Byte} {g : α → Nat} {xs : List α} (h : ∀ x ∈ xs, hexVal (f x) = some (g x)) :
    hexDigits (xs.map f) = some (xs.map g) := by
  induction xs with
  | nil => rfl
  | cons x xs ih =>
    rw [List.forall_mem_cons] at h
    rw [List.map_cons, hexDigits, h.1, ih h.2, List.map_cons]

theorem hexDigits_eq_none {cs : List Byte} {c : Byte} (hmem : c ∈ cs) (hc : hexVal c = none) : hexDigits cs = none := by
  induction hmem with
  | head => rw [hexDigits, hc]
  | tail b _ ih => rw [hexDigits, ih]; cases hexVal b <;> rfl

theorem hexDigits_map_toLower (cs : List Byte) : hexDigits (cs.map toLower) = hexDigits cs := by
  induction cs with
  | nil => rfl
  | cons c cs ih => rw [List.map_cons, hexDigits, hexVal_toLower, ih, hexDigits]

theorem bytesOf_big_succ (v n : Nat) : bytesOf .big v (n + 1) = byteOf v n :: bytesOf .big v n := by
  simp [bytesOf, bytesLE, List.range_succ]

/-- The two nibbles of a byte are limbs of 4 bits. -/
theorem byteOf_high_nibble (v j : Nat) : (byteOf v j).toNat / 16 = Reference.limb 4 v (2 * j + 1) := by
  rw [byteOf_toNat, Nat.mod_mul_right_div_self _ 16 16, Nat.div_div_eq_div_mul, Reference.limb,
    show 4 * (2 * j + 1) = 8 * j + 4 by ring, Nat.pow_add]
  rfl

theorem byteOf_low_nibble (v j : Nat) : (byteOf v j).toNat % 16 = Reference.limb 4 v (2 * j) := by
  rw [byteOf_toNat, Nat.mod_mul_right_mod _ 16 16, Reference.limb, show 4 * (2 * j) = 8 * j by ring]
  rfl

/-- The text TOHEX writes is the number's limbs of 4 bits, the most significant first. -/
theorem hexText_bytesOf_big (v n : Nat) :
    hexText (bytesOf .big v n) = (Reference.limbs 4 (2 * n) v).reverse.map hexChar := by
  induction n with
  | zero => rfl
  | succ n ih =>
    rw [bytesOf_big_succ, hexText, ih, byteOf_high_nibble, byteOf_low_nibble, Nat.mul_succ,
      Reference.reverse_limbs_succ, Reference.reverse_limbs_succ, List.map_cons, List.map_cons]

/-- The digits of that text. -/
theorem hexDigits_hexText (v n : Nat) :
    hexDigits (hexText (bytesOf .big v n)) = some (Reference.limbs 4 (2 * n) v).reverse := by
  rw [hexText_bytesOf_big, hexDigits_map (g := id), List.map_id]
  exact fun d hd => hexVal_hexChar (Reference.limbs_lt 4 _ v d (List.mem_reverse.1 hd))

theorem natOfDigits_reverse_limbs {v n : Nat} (hv : v < 2 ^ (8 * n)) :
    natOfDigits (Reference.limbs 4 (2 * n) v).reverse = v := by
  rw [natOfDigits_eq_ofLimbs, List.reverse_reverse, Reference.ofLimbs_limbs_of_lt (by rwa [← Nat.mul_assoc])]

/-! ### OUT and IN by their places (R19, R23, R108 to R110) -/

/-- Byte i of a number's n bytes in the chosen order. -/
theorem bytesOf_eq_map (en : Endian) (v n : Nat) : bytesOf en v n =
    (List.range n).map fun i => BitVec.ofNat 8 (v / 2 ^ (8 * match en with | .big => n - 1 - i | .little => i) % 2 ^ 8) := by
  have hbyte : ∀ j, BitVec.ofNat 8 (v / 2 ^ (8 * j) % 2 ^ 8) = byteOf v j := fun j =>
    BitVec.eq_of_toNat_eq (by simp)
  simp only [hbyte]
  cases en with
  | little => rfl
  | big => exact reverse_map_range n (byteOf v)

/-- Character i of the hex text of a number's n bytes is the digit of weight 16^(2n-1-i). -/
theorem hexText_eq_map (v n : Nat) : hexText (bytesOf .big v n) =
    (List.range (2 * n)).map fun i => lowerHex (v / 16 ^ (2 * n - 1 - i) % 16) := by
  rw [hexText_bytesOf_big, Reference.limbs, reverse_map_range, List.map_map]
  refine List.map_congr_left fun i _ => ?_
  rw [Function.comp_apply, lowerHex_eq_hexChar, Reference.limb, Nat.pow_mul]
  rfl

theorem respond_completes (s : State) (r : Response) : CompletesWith (.next (s.respond r)) s r :=
  ⟨_, rfl, rfl, rfl, rfl, rfl, rfl⟩

theorem setOut_isOutput (ws : WSel) {n : Nat} (hn : n ≤ bufBytes) (f : Nat → Byte) :
    IsOutput ws n f ((Response.default ws).setOut ((List.range n).map f)) := by
  refine ⟨rfl, rfl, rfl, ?_, fun i hi => ?_⟩
  · rw [Response.setOut_outLen, BitVec.toNat_ofNat, List.length_map, List.length_range]
    exact Nat.mod_eq_of_lt (by unfold bufBytes at hn; omega)
  · simp only [Response.setOut_out, bufferOf_getElem]
    by_cases h : i < n <;> simp [h]

theorem take_inBytes {n : Nat} (hn : n ≤ bufBytes) (s : State) :
    s.latch.inBytes.toList.take n = (List.range n).map (inAt s) := by
  apply List.ext_getElem
  · simpa using hn
  · intro i h1 h2
    have hi : i < bufBytes := by simp at h2; omega
    simp [inAt, hi]

/-- The number FROMBYTES reads, as a sum over the bytes of IN (R109). -/
theorem natOfBytes_inBytes (en : Endian) {n : Nat} (hn : n ≤ bufBytes) (s : State) :
    natOfBytes en (s.latch.inBytes.toList.take n) = inNumber en n s := by
  rw [take_inBytes hn]
  cases en with
  | little => rw [natOfBytes, natOfBytesLE_eq_ofLimbs, List.map_map, Reference.ofLimbs_map_range]; rfl
  | big =>
    rw [natOfBytes, natOfBytesLE_eq_ofLimbs, List.map_reverse, List.map_map, Reference.ofLimbs_reverse_map_range]; rfl

/-- A state that presents what an encoding command left in OUT: the bytes are read back. -/
theorem presented_output {ws : WSel} {bytes : List Byte} {s : State} (hlen : bytes.length ≤ bufBytes)
    (hbytes : s.latch.inBytes = ((Response.default ws).setOut bytes).out)
    (hinLen : s.latch.inLen = ((Response.default ws).setOut bytes).outLen) :
    inLen s = bytes.length ∧ s.latch.inBytes.toList.take bytes.length = bytes := by
  constructor
  · rw [inLen, hinLen, Response.setOut_outLen, BitVec.toNat_ofNat]
    exact Nat.mod_eq_of_lt (by unfold bufBytes at hlen; omega)
  · rw [hbytes, Response.setOut_out, take_bufferOf bytes hlen]

theorem isByteAligned_iff {W : Nat} : isByteAligned W = true ↔ W % 8 = 0 := beq_iff_eq

theorem nbytes_le_bufBytes {ws : WSel} {W : Nat} (h : widthOf ws = some W) : nbytes W ≤ bufBytes :=
  (nbytes_le h).trans (by decide)

theorem two_nbytes_le_bufBytes {ws : WSel} {W : Nat} (h : widthOf ws = some W) : 2 * nbytes W ≤ bufBytes := by
  have := nbytes_le h
  unfold bufBytes; omega

theorem lt_pow_bytes {W v : Nat} (hv : v < 2 ^ W) : v < 2 ^ (8 * nbytes W) :=
  hv.trans_le (Nat.pow_le_pow_right Nat.two_pos (width_le_bytes W))

/-! ### The commands (R108 to R111) -/

section Commands
variable {ws : WSel} {W : Nat} {s : State} (pol : Policy)

/-- The response of TOHEX on an operand that passes the checks (R110). -/
theorem execTohex_of_ready (h : UnaryReady ws W s) : execTohex ws pol s =
    .next (s.respond ((Response.default ws).setOut (hexText (bytesOf .big (valA s) (nbytes W))))) := by
  obtain ⟨hW, ha⟩ := h
  rw [execTohex, unary_of_valid hW ha]
  exact State.finish_ok (by simp [statusErr])

/-- What a decoder ends in: its value, or OverflowOnDecode when the value does not fit. -/
theorem decodedValue_completes (s : State) (ws : WSel) (W v : Nat) :
    CompletesWith (s.finish ws (decodedValue ws W v)) s
      (if 2 ^ W ≤ v then reply ws 0 0 0x08#32 else reply ws v 0 0x00#32) := by
  unfold decodedValue
  split
  · rw [State.finish_error]
    exact completesWith_error s ws .overflowOnDecode
  · exact value_completes s ws v

theorem execFrombytes_of_length_ne (en : Endian) (h : widthOf ws = some W) (hlen : inLen s ≠ nbytes W) :
    CompletesWith (execFrombytes ws pol en s) s (reply ws 0 0 0x05#32) := by
  rw [execFrombytes, bytesIn_of_width h, if_pos hlen, State.finish_error]
  exact completesWith_error s ws .lengthMismatch

theorem execFrombytes_of_length (en : Endian) (h : widthOf ws = some W) (hlen : inLen s = nbytes W) {v : Nat}
    (hv : natOfBytes en (s.latch.inBytes.toList.take (nbytes W)) = v) :
    CompletesWith (execFrombytes ws pol en s) s
      (if 2 ^ W ≤ v then reply ws 0 0 0x08#32 else reply ws v 0 0x00#32) := by
  rw [execFrombytes, bytesIn_of_width h, if_neg (not_not.2 hlen), hv]
  exact decodedValue_completes s ws W v

theorem execFromhex_of_odd (h : widthOf ws = some W) (hodd : W % 8 = 0 ∧ inLen s % 2 = 1) :
    CompletesWith (execFromhex ws pol s) s (reply ws 0 0 0x06#32) := by
  rw [execFromhex, bytesIn_of_width h, if_pos (hodd.imp_left isByteAligned_iff.2), State.finish_error]
  exact completesWith_error s ws .oddLength

theorem execFromhex_of_length_ne (h : widthOf ws = some W) (hodd : ¬ (W % 8 = 0 ∧ inLen s % 2 = 1))
    (hlen : inLen s ≠ 2 * nbytes W) : CompletesWith (execFromhex ws pol s) s (reply ws 0 0 0x05#32) := by
  rw [execFromhex, bytesIn_of_width h, if_neg (mt (And.imp_left isByteAligned_iff.1) hodd),
    if_pos hlen, State.finish_error]
  exact completesWith_error s ws .lengthMismatch

/-- At the right length only the text is left to judge. -/
theorem execFromhex_of_length (h : widthOf ws = some W) (hlen : inLen s = 2 * nbytes W) {digits : Option (List Nat)}
    (hdigits : hexDigits (s.latch.inBytes.toList.take (2 * nbytes W)) = digits) :
    execFromhex ws pol s = s.finish ws
      (digits.elim (.error .invalidHexDigit) fun ds => decodedValue ws W (natOfDigits ds)) := by
  have hodd : ¬ (isByteAligned W = true ∧ inLen s % 2 = 1) := by omega
  rw [execFromhex, bytesIn_of_width h, if_neg hodd, if_neg (not_not.2 hlen), hdigits]
  cases digits <;> rfl

theorem execFromhex_of_bad_digit (h : widthOf ws = some W) (hlen : inLen s = 2 * nbytes W)
    (hdigits : hexDigits (s.latch.inBytes.toList.take (2 * nbytes W)) = none) :
    CompletesWith (execFromhex ws pol s) s (reply ws 0 0 0x07#32) := by
  rw [execFromhex_of_length pol h hlen hdigits, Option.elim, State.finish_error]
  exact completesWith_error s ws .invalidHexDigit

theorem execFromhex_of_digits (h : widthOf ws = some W) (hlen : inLen s = 2 * nbytes W) {ds : List Nat}
    (hdigits : hexDigits (s.latch.inBytes.toList.take (2 * nbytes W)) = some ds) {v : Nat} (hv : natOfDigits ds = v) :
    CompletesWith (execFromhex ws pol s) s (if 2 ^ W ≤ v then reply ws 0 0 0x08#32 else reply ws v 0 0x00#32) := by
  rw [execFromhex_of_length pol h hlen hdigits, Option.elim, hv]
  exact decodedValue_completes s ws W v

/-- FROMHEX looks at the digits of its text and at nothing else of it. -/
theorem execFromhex_congr {s t : State} (hlen : t.latch.inLen = s.latch.inLen)
    (hdigits : ∀ n, hexDigits (t.latch.inBytes.toList.take n) = hexDigits (s.latch.inBytes.toList.take n)) :
    ∃ r, execFromhex ws pol s = .next (s.respond r) ∧ execFromhex ws pol t = .next (t.respond r) := by
  obtain ⟨r, -, hs⟩ := execFromhex_responds ws pol s
  refine ⟨r, hs, ?_⟩
  rw [execFromhex, bytesIn, State.finish_eq_complete, State.complete_eq_respond_iff] at hs ⊢
  simpa only [hlen, hdigits] using hs

end Commands

end Sys2Proof.Machine

namespace Sys2Proof

open Sys2Proof.Machine Sys2Proof.Claims

/-- Settles O47: the list of bytes TOBYTES writes, by its places. -/
theorem tobytesFollowsItsRule : Obligations.TobytesFollowsItsRule := by
  unfold Obligations.TobytesFollowsItsRule
  refine fun ws pol en s => ⟨encoded_word (.tobytes ws pol en), operandErrors_operandsRead (.tobytes ws pol en) s, ?_⟩
  rintro W _ hready rfl
  refine ⟨(Response.default ws).setOut (bytesOf en (valA s) (nbytes W)), ?_, ?_⟩
  · rw [exec_tobytes, execTobytes_of_ready pol en hready]
    exact respond_completes s _
  · rw [bytesOf_eq_map]
    exact setOut_isOutput ws (nbytes_le_bufBytes hready.1) _

/-- Settles O48: the length is judged first, then the number of the bytes. -/
theorem frombytesFollowsItsRule : Obligations.FrombytesFollowsItsRule := by
  unfold Obligations.FrombytesFollowsItsRule
  refine fun ws pol en s => ⟨encoded_word (.frombytes ws pol en), operandErrors_operandsRead (.frombytes ws pol en) s, ?_⟩
  rintro W _ hW rfl
  exact ⟨execFrombytes_of_length_ne pol en hW,
    fun hlen => execFrombytes_of_length pol en hW hlen (natOfBytes_inBytes en (nbytes_le_bufBytes hW) s)⟩

/-- Settles O49: the text TOHEX writes, by its places. -/
theorem tohexFollowsItsRule : Obligations.TohexFollowsItsRule := by
  unfold Obligations.TohexFollowsItsRule
  refine fun ws pol s => ⟨encoded_word (.tohex ws pol), operandErrors_operandsRead (.tohex ws pol) s, ?_⟩
  rintro W _ hready rfl
  refine ⟨(Response.default ws).setOut (hexText (bytesOf .big (valA s) (nbytes W))), ?_, ?_⟩
  · rw [exec_tohex, execTohex_of_ready pol hready]
    exact respond_completes s _
  · rw [hexText_eq_map]
    exact setOut_isOutput ws (two_nbytes_le_bufBytes hready.1) _

/-- Settles O50: length, characters and value are judged in this order. -/
theorem fromhexFollowsItsRule : Obligations.FromhexFollowsItsRule := by
  unfold Obligations.FromhexFollowsItsRule
  refine fun ws pol s => ⟨encoded_word (.fromhex ws pol), operandErrors_operandsRead (.fromhex ws pol) s, ?_⟩
  rintro W _ hW rfl
  have hin := take_inBytes (two_nbytes_le_bufBytes hW) s
  refine ⟨execFromhex_of_odd pol hW, fun ⟨hodd, hlen⟩ => execFromhex_of_length_ne pol hW hodd hlen,
    fun ⟨hlen, i, hi, hbad⟩ => ?_, fun digit v hlen hdigit hv => ?_⟩
  · have hmem : inAt s i ∈ (List.range (2 * nbytes W)).map (inAt s) := List.mem_map_of_mem (List.mem_range.2 hi)
    exact execFromhex_of_bad_digit pol hW hlen (hin ▸ hexDigits_eq_none hmem (hexVal_eq_none_iff.2 hbad))
  · have hdigits := hexDigits_map (xs := List.range (2 * nbytes W)) (f := inAt s) (g := digit)
      fun i hi => hexVal_eq_some_iff.2 (hdigit i (List.mem_range.1 hi))
    refine execFromhex_of_digits pol hW hlen (hin ▸ hdigits) ?_
    rw [natOfDigits_eq_ofLimbs, Reference.ofLimbs_reverse_map_range, hv]
    exact Finset.sum_congr rfl fun i _ => by rw [Nat.pow_mul]; rfl

/-- Settles O51: the bytes hold the operand whole, so that the number read is the operand and fits. -/
theorem bytesRoundTrip : Obligations.BytesRoundTrip := by
  unfold Obligations.BytesRoundTrip
  refine fun ws pol pol' en W s hready => ⟨_, execTobytes_of_ready pol en hready, fun s' hbytes hlen => ?_⟩
  obtain ⟨hW, -, hlt⟩ := hready
  obtain ⟨hlen', htake⟩ := presented_output (by simpa using nbytes_le_bufBytes hW) hbytes hlen
  rw [bytesOf_length] at hlen' htake
  have hdone := execFrombytes_of_length pol' en hW hlen' (htake ▸ natOfBytes_bytesOf en (lt_pow_bytes hlt))
  rwa [if_neg (Nat.not_le.2 hlt)] at hdone

/-- Settles O52: the digits of the text are the operand's, so that the number read is the operand and fits. -/
theorem hexRoundTrip : Obligations.HexRoundTrip := by
  unfold Obligations.HexRoundTrip
  refine fun ws pol pol' W s hready => ⟨_, execTohex_of_ready pol hready, fun s' hbytes hlen => ?_⟩
  obtain ⟨hW, -, hlt⟩ := hready
  obtain ⟨hlen', htake⟩ := presented_output (by simpa using two_nbytes_le_bufBytes hW) hbytes hlen
  rw [hexText_length, bytesOf_length] at hlen' htake
  have hdone := execFromhex_of_digits pol' hW hlen' (htake ▸ hexDigits_hexText _ _)
    (natOfDigits_reverse_limbs (lt_pow_bytes hlt))
  rwa [if_neg (Nat.not_le.2 hlt)] at hdone

/-- Settles O53: lower case changes no digit, and FROMHEX looks at the digits only. -/
theorem hexDecodingIgnoresCase : Obligations.HexDecodingIgnoresCase := by
  unfold Obligations.HexDecodingIgnoresCase
  intro ws pol s s' hlen hlower
  have htext : s'.latch.inBytes.toList = s.latch.inBytes.toList.map toLower :=
    List.ext_getElem (by simp) fun i hi _ => by simpa using hlower i (by simpa using hi)
  obtain ⟨r, hs, hs'⟩ := execFromhex_congr (ws := ws) pol hlen fun n => by
    rw [htext, ← List.map_take, hexDigits_map_toLower]
  exact ⟨_, _, hs, hs', rfl⟩

end Sys2Proof
end

section
/-! PROOF. No edge stops the block (R113, R118, R120), and an edge at rest changes nothing but the wires (R35, R126). -/

namespace Sys2Proof

open Sys2Proof.Machine Sys2Proof.Claims

/-- Settles O12, by the cases of an edge: only the completing edge could stop, and it always has a response to show. -/
theorem everyStepAnswersANextState : Obligations.EveryStepAnswersANextState := by
  unfold Obligations.EveryStepAnswersANextState
  intro s
  rw [← s.nextPins_eq_wiresMoved]
  obtain ⟨-, hs⟩ | ⟨-, -, -, hs⟩ | ⟨-, -, -, hs⟩ | ⟨-, -, -, hs⟩ | ⟨-, -, -, hs⟩ := step_cases s
  · exact ⟨s.nextPins.resetEdge, hs, State.resetEdge_pins _, State.resetEdge_hostNext _⟩
  · obtain ⟨r, -, hr⟩ := runLatched_responds s.nextPins
    exact ⟨s.nextPins.respond r, hs.trans hr, State.respond_pins _ _, State.respond_hostNext _ _⟩
  · exact ⟨s.nextPins.tick, hs, State.tick_pins _, State.tick_hostNext _⟩
  · exact ⟨s.nextPins.accept s.pins.ports, hs, State.accept_pins _ _, State.accept_hostNext _ _⟩
  · exact ⟨s.nextPins, hs, rfl, rfl⟩

/-- Settles O4: the edge at rest is the move of the wires. -/
theorem restingEdgeHoldsTheRegisters : Obligations.RestingEdgeHoldsTheRegisters := by
  unfold Obligations.RestingEdgeHoldsTheRegisters
  intro s hr hb hv
  rw [step_of_resting hr hb hv, s.nextPins_eq_wiresMoved]

end Sys2Proof
end

section
/-! PROOF. Reset wins over everything else at an edge (R127, R128). -/

namespace Sys2Proof.Machine

/-- No command is accepted under reset (R128), whether or not one is in flight. -/
theorem State.cmdReady_eq_false_of_rst {s : State} (hr : s.pins.rst = true) : s.cmdReady = false := by
  simp [State.cmdReady, hr]

end Sys2Proof.Machine

namespace Sys2Proof

open Sys2Proof.Machine Sys2Proof.Claims

/-- Settles O2: an edge under reset is the reset edge, which reads neither BUSY nor LATCH and writes the registers' reset
values. -/
theorem resetEdgeRestoresResetValues : Obligations.ResetEdgeRestoresResetValues := by
  unfold Obligations.ResetEdgeRestoresResetValues
  intro s hr
  have hs : step s = .next s.nextPins.resetEdge := step_of_rst hr
  exact ⟨State.cmdReady_eq_false_of_rst hr, s.nextPins.resetEdge, hs,
    State.resetEdge_busy _, State.resetEdge_rspValid _, State.resetEdge_rsp _⟩

end Sys2Proof
end
